-- ==== Sys2Proof/Word.lean ====
section
/-! DEFINITION. The machine's words (00_scope.md R5, R7). Every value is unsigned and nothing is ever sign-extended. -/

namespace Sys2Proof

/-- A register, a timer or a memory byte: 8 bits (R20, R27, R28, R31). -/
abbrev Byte := BitVec 8

/-- An instruction word, I, pc or a stack entry: 16 bits (R22, R23, R25, R84). -/
abbrev Word := BitVec 16

/-- The `nnn` operand: a 12-bit address (R84). -/
abbrev Addr := BitVec 12

/-- A register number, the `x` or `y` operand (R84, R85). -/
abbrev Reg := Fin 16

/-- `zext_16` of a byte (R7). -/
def Byte.toWord (b : Byte) : Word := b.setWidth 16

/-- `zext_16` of a 12-bit address (R7, R85). -/
def Addr.toWord (a : Addr) : Word := a.setWidth 16

end Sys2Proof
end

