-- ==== Sys2Proof/Syntax.lean ====
section
/-! DEFINITION. The instructions: one constructor per row of the opcode table (30_encoding.md R82), in its order, with the
operand fields its pattern gives (R84, R88). The bounds of the operands are in their types. -/

namespace Sys2Proof

inductive Instr where
  /-- 00E0, CLS -/
  | cls
  /-- 00EE, RET -/
  | ret
  /-- 1nnn, JP nnn -/
  | jp (nnn : Addr)
  /-- 2nnn, CALL nnn -/
  | call (nnn : Addr)
  /-- 3xnn, SE Vx, nn -/
  | seImm (x : Reg) (nn : Byte)
  /-- 4xnn, SNE Vx, nn -/
  | sneImm (x : Reg) (nn : Byte)
  /-- 5xy0, SE Vx, Vy -/
  | seReg (x y : Reg)
  /-- 6xnn, LD Vx, nn -/
  | ldImm (x : Reg) (nn : Byte)
  /-- 7xnn, ADD Vx, nn -/
  | addImm (x : Reg) (nn : Byte)
  /-- 8xy0, LD Vx, Vy -/
  | ldReg (x y : Reg)
  /-- 8xy1, OR Vx, Vy -/
  | orReg (x y : Reg)
  /-- 8xy2, AND Vx, Vy -/
  | andReg (x y : Reg)
  /-- 8xy3, XOR Vx, Vy -/
  | xorReg (x y : Reg)
  /-- 8xy4, ADD Vx, Vy -/
  | addReg (x y : Reg)
  /-- 8xy5, SUB Vx, Vy -/
  | subReg (x y : Reg)
  /-- 8xy6, SHR Vx; the y field is decoded and ignored (R88) -/
  | shr (x y : Reg)
  /-- 8xy7, SUBN Vx, Vy -/
  | subnReg (x y : Reg)
  /-- 8xyE, SHL Vx; the y field is decoded and ignored (R88) -/
  | shl (x y : Reg)
  /-- 9xy0, SNE Vx, Vy -/
  | sneReg (x y : Reg)
  /-- Annn, LD I, nnn -/
  | ldI (nnn : Addr)
  /-- Bnnn, JP V0, nnn -/
  | jpV0 (nnn : Addr)
  /-- Cxnn, RND Vx, nn -/
  | rnd (x : Reg) (nn : Byte)
  /-- Dxyn, DRW Vx, Vy, n; n is the row count 0..15 (R85) -/
  | drw (x y : Reg) (n : Fin 16)
  /-- Ex9E, SKP Vx -/
  | skp (x : Reg)
  /-- ExA1, SKNP Vx -/
  | sknp (x : Reg)
  /-- Fx07, LD Vx, DT -/
  | ldVxDt (x : Reg)
  /-- Fx15, LD DT, Vx -/
  | ldDtVx (x : Reg)
  /-- Fx18, LD ST, Vx -/
  | ldStVx (x : Reg)
  /-- Fx1E, ADD I, Vx -/
  | addI (x : Reg)
  /-- Fx0A, LD Vx, K -/
  | ldVxK (x : Reg)
  /-- Fx29, LD F, Vx -/
  | ldF (x : Reg)
  /-- Fx33, LD B, Vx -/
  | ldB (x : Reg)
  /-- Fx55, LD [I], Vx -/
  | storeRegs (x : Reg)
  /-- Fx65, LD Vx, [I] -/
  | loadRegs (x : Reg)
  deriving DecidableEq, Repr

end Sys2Proof
end

