-- ==== Sys2Proof/WellFormed.lean ====
section
/-! DEFINITION. Which words are instructions (30_encoding.md R82, R87). An `Instr` term carries the bounds of its operands
in its types, so every term is well formed; what can be ill formed is a word, and the check is the opcode table itself,
kept apart from the decoder so that the two can be held against each other. -/

namespace Sys2Proof

/-- One row of the table of R82. -/
structure OpcodeRow where
  pattern : String
  mask    : Word
  fixed   : Word
  deriving DecidableEq, Repr

/-- `(w & mask) = match` (R87). -/
def OpcodeRow.accepts (r : OpcodeRow) (w : Word) : Bool := w &&& r.mask == r.fixed

/-- Rows 1 to 13 of R82. -/
def opcodeRowsA : List OpcodeRow :=
  [ ⟨"00E0", 0xFFFF, 0x00E0⟩, ⟨"00EE", 0xFFFF, 0x00EE⟩, ⟨"1nnn", 0xF000, 0x1000⟩, ⟨"2nnn", 0xF000, 0x2000⟩,
    ⟨"3xnn", 0xF000, 0x3000⟩, ⟨"4xnn", 0xF000, 0x4000⟩, ⟨"5xy0", 0xF00F, 0x5000⟩, ⟨"6xnn", 0xF000, 0x6000⟩,
    ⟨"7xnn", 0xF000, 0x7000⟩, ⟨"8xy0", 0xF00F, 0x8000⟩, ⟨"8xy1", 0xF00F, 0x8001⟩, ⟨"8xy2", 0xF00F, 0x8002⟩,
    ⟨"8xy3", 0xF00F, 0x8003⟩ ]

/-- Rows 14 to 23 of R82. -/
def opcodeRowsB : List OpcodeRow :=
  [ ⟨"8xy4", 0xF00F, 0x8004⟩, ⟨"8xy5", 0xF00F, 0x8005⟩, ⟨"8xy6", 0xF00F, 0x8006⟩, ⟨"8xy7", 0xF00F, 0x8007⟩,
    ⟨"8xyE", 0xF00F, 0x800E⟩, ⟨"9xy0", 0xF00F, 0x9000⟩, ⟨"Annn", 0xF000, 0xA000⟩, ⟨"Bnnn", 0xF000, 0xB000⟩,
    ⟨"Cxnn", 0xF000, 0xC000⟩, ⟨"Dxyn", 0xF000, 0xD000⟩ ]

/-- Rows 24 to 34 of R82. -/
def opcodeRowsC : List OpcodeRow :=
  [ ⟨"Ex9E", 0xF0FF, 0xE09E⟩, ⟨"ExA1", 0xF0FF, 0xE0A1⟩, ⟨"Fx07", 0xF0FF, 0xF007⟩, ⟨"Fx15", 0xF0FF, 0xF015⟩,
    ⟨"Fx18", 0xF0FF, 0xF018⟩, ⟨"Fx1E", 0xF0FF, 0xF01E⟩, ⟨"Fx0A", 0xF0FF, 0xF00A⟩, ⟨"Fx29", 0xF0FF, 0xF029⟩,
    ⟨"Fx33", 0xF0FF, 0xF033⟩, ⟨"Fx55", 0xF0FF, 0xF055⟩, ⟨"Fx65", 0xF0FF, 0xF065⟩ ]

/-- The whole table of R82, in its order. -/
def opcodeRows : List OpcodeRow := opcodeRowsA ++ opcodeRowsB ++ opcodeRowsC

/-- A word is an instruction exactly when a row of the table accepts it (R87); every other word is unrecognized (R90). -/
def wellFormedWord (w : Word) : Bool := opcodeRows.any fun r => r.accepts w

end Sys2Proof
end

