-- ==== Sys2Proof/Decode.lean ====
section
/-! DEFINITION. Words to instructions and back (30_encoding.md R81, R84 to R90). Decoding is total: a word of no row is
rejected by name, and a byte list too short for a word is rejected by another name. -/

namespace Sys2Proof

/-- Why bytes do not decode. -/
inductive DecodeError where
  /-- Fewer than the two bytes every instruction has (R93). -/
  | tooShort
  /-- The word matches no row of the table (R90); the machine runs it as a no-op with a Diagnostic (R92). -/
  | unknownOpcode (w : Word)
  deriving DecidableEq, Repr

/-- `w[lo+width-1 : lo]`, read as an unsigned integer (00_scope.md R6). -/
def bitField (w : Word) (lo width : Nat) : Nat := w.toNat / 2 ^ lo % 2 ^ width

/-- `op`, the primary instruction family (R84, R86). -/
def opField (w : Word) : Nat := bitField w 12 4

/-- `x` (R84). -/
def xField (w : Word) : Reg := ⟨bitField w 8 4, Nat.mod_lt _ (by decide)⟩

/-- `y` (R84). -/
def yField (w : Word) : Reg := ⟨bitField w 4 4, Nat.mod_lt _ (by decide)⟩

/-- `n` (R84). -/
def nField (w : Word) : Fin 16 := ⟨bitField w 0 4, Nat.mod_lt _ (by decide)⟩

/-- `nn` (R84). -/
def nnField (w : Word) : Byte := BitVec.ofNat 8 (bitField w 0 8)

/-- `nnn` (R84). -/
def nnnField (w : Word) : Addr := BitVec.ofNat 12 (bitField w 0 12)

/-- Family 0: the two full words, every other `0nnn` is unrecognized (R90, R96). -/
def decodeFamily0 (w : Word) : Except DecodeError Instr :=
  match w.toNat with
  | 0x00E0 => .ok .cls
  | 0x00EE => .ok .ret
  | _ => .error (.unknownOpcode w)

/-- Family 5: `5xy0` (R87). -/
def decodeFamily5 (w : Word) : Except DecodeError Instr :=
  match (nField w).val with
  | 0 => .ok (.seReg (xField w) (yField w))
  | _ => .error (.unknownOpcode w)

/-- Family 8, by its last nibble (R88). -/
def decodeFamily8 (w : Word) : Except DecodeError Instr :=
  match (nField w).val with
  | 0x0 => .ok (.ldReg (xField w) (yField w))
  | 0x1 => .ok (.orReg (xField w) (yField w))
  | 0x2 => .ok (.andReg (xField w) (yField w))
  | 0x3 => .ok (.xorReg (xField w) (yField w))
  | 0x4 => .ok (.addReg (xField w) (yField w))
  | 0x5 => .ok (.subReg (xField w) (yField w))
  | 0x6 => .ok (.shr (xField w) (yField w))
  | 0x7 => .ok (.subnReg (xField w) (yField w))
  | 0xE => .ok (.shl (xField w) (yField w))
  | _ => .error (.unknownOpcode w)

/-- Family 9: `9xy0` (R87). -/
def decodeFamily9 (w : Word) : Except DecodeError Instr :=
  match (nField w).val with
  | 0 => .ok (.sneReg (xField w) (yField w))
  | _ => .error (.unknownOpcode w)

/-- Family E, by its low byte (R88). -/
def decodeFamilyE (w : Word) : Except DecodeError Instr :=
  match bitField w 0 8 with
  | 0x9E => .ok (.skp (xField w))
  | 0xA1 => .ok (.sknp (xField w))
  | _ => .error (.unknownOpcode w)

/-- Family F, by its low byte (R88). -/
def decodeFamilyF (w : Word) : Except DecodeError Instr :=
  match bitField w 0 8 with
  | 0x07 => .ok (.ldVxDt (xField w))
  | 0x0A => .ok (.ldVxK (xField w))
  | 0x15 => .ok (.ldDtVx (xField w))
  | 0x18 => .ok (.ldStVx (xField w))
  | 0x1E => .ok (.addI (xField w))
  | 0x29 => .ok (.ldF (xField w))
  | 0x33 => .ok (.ldB (xField w))
  | 0x55 => .ok (.storeRegs (xField w))
  | 0x65 => .ok (.loadRegs (xField w))
  | _ => .error (.unknownOpcode w)

/-- Decode dispatches on the top nibble (R86). -/
def decode (w : Word) : Except DecodeError Instr :=
  match opField w with
  | 0x0 => decodeFamily0 w
  | 0x1 => .ok (.jp (nnnField w))
  | 0x2 => .ok (.call (nnnField w))
  | 0x3 => .ok (.seImm (xField w) (nnField w))
  | 0x4 => .ok (.sneImm (xField w) (nnField w))
  | 0x5 => decodeFamily5 w
  | 0x6 => .ok (.ldImm (xField w) (nnField w))
  | 0x7 => .ok (.addImm (xField w) (nnField w))
  | 0x8 => decodeFamily8 w
  | 0x9 => decodeFamily9 w
  | 0xA => .ok (.ldI (nnnField w))
  | 0xB => .ok (.jpV0 (nnnField w))
  | 0xC => .ok (.rnd (xField w) (nnField w))
  | 0xD => .ok (.drw (xField w) (yField w) (nField w))
  | 0xE => decodeFamilyE w
  | 0xF => decodeFamilyF w
  | _ => .error (.unknownOpcode w)

/-- A big-endian word: the first byte is the high one (20_memory.md R51, R81). -/
def wordOfBytes (hi lo : Byte) : Word := BitVec.ofNat 16 (hi.toNat * 256 + lo.toNat)

/-- Bits 15..8 of a word. -/
def hiByte (w : Word) : Byte := BitVec.ofNat 8 (bitField w 8 8)

/-- Bits 7..0 of a word. -/
def loByte (w : Word) : Byte := BitVec.ofNat 8 (bitField w 0 8)

/-- The instruction at the head of a byte list and the bytes after it; every instruction is two bytes (R93). -/
def decodeBytes : List Byte → Except DecodeError (Instr × List Byte)
  | hi :: lo :: rest =>
    match decode (wordOfBytes hi lo) with
    | .ok i => .ok (i, rest)
    | .error e => .error e
  | _ => .error .tooShort

/-- The host's numbering of a table word: bit 0 is the least significant bit of the one 16-bit word, which the hardware
stores high byte first. -/
def decodeTableWord (nbits w : Nat) : Option Instr :=
  let word : Word := BitVec.ofNat 16 (w % 2 ^ nbits)
  match decodeBytes [hiByte word, loByte word] with
  | .ok (i, _) => some i
  | .error _ => none

/-- The word with the four nibbles `a b c d`, from the left (R6). -/
def nibbles (a b c d : Nat) : Word := BitVec.ofNat 16 (a * 4096 + b * 256 + c * 16 + d)

/-- Format NNN (R88). -/
def formatNNN (op : Nat) (nnn : Addr) : Word := BitVec.ofNat 16 (op * 4096 + nnn.toNat)

/-- Format XNN (R88). -/
def formatXNN (op : Nat) (x : Reg) (nn : Byte) : Word := BitVec.ofNat 16 (op * 4096 + x.val * 256 + nn.toNat)

/-- Format X (R88). -/
def formatX (op : Nat) (x : Reg) (ss : Nat) : Word := BitVec.ofNat 16 (op * 4096 + x.val * 256 + ss)

/-- The word of an instruction, from the patterns of R82 and the formats of R88. -/
def encode : Instr → Word
  | .cls => 0x00E0
  | .ret => 0x00EE
  | .jp nnn => formatNNN 0x1 nnn
  | .call nnn => formatNNN 0x2 nnn
  | .seImm x nn => formatXNN 0x3 x nn
  | .sneImm x nn => formatXNN 0x4 x nn
  | .seReg x y => nibbles 0x5 x y 0
  | .ldImm x nn => formatXNN 0x6 x nn
  | .addImm x nn => formatXNN 0x7 x nn
  | .ldReg x y => nibbles 0x8 x y 0x0
  | .orReg x y => nibbles 0x8 x y 0x1
  | .andReg x y => nibbles 0x8 x y 0x2
  | .xorReg x y => nibbles 0x8 x y 0x3
  | .addReg x y => nibbles 0x8 x y 0x4
  | .subReg x y => nibbles 0x8 x y 0x5
  | .shr x y => nibbles 0x8 x y 0x6
  | .subnReg x y => nibbles 0x8 x y 0x7
  | .shl x y => nibbles 0x8 x y 0xE
  | .sneReg x y => nibbles 0x9 x y 0
  | .ldI nnn => formatNNN 0xA nnn
  | .jpV0 nnn => formatNNN 0xB nnn
  | .rnd x nn => formatXNN 0xC x nn
  | .drw x y n => nibbles 0xD x y n
  | .skp x => formatX 0xE x 0x9E
  | .sknp x => formatX 0xE x 0xA1
  | .ldVxDt x => formatX 0xF x 0x07
  | .ldDtVx x => formatX 0xF x 0x15
  | .ldStVx x => formatX 0xF x 0x18
  | .addI x => formatX 0xF x 0x1E
  | .ldVxK x => formatX 0xF x 0x0A
  | .ldF x => formatX 0xF x 0x29
  | .ldB x => formatX 0xF x 0x33
  | .storeRegs x => formatX 0xF x 0x55
  | .loadRegs x => formatX 0xF x 0x65

/-- The two bytes of an instruction in memory order (R51). -/
def encodeBytes (i : Instr) : List Byte := [hiByte (encode i), loByte (encode i)]

end Sys2Proof
end

