-- ==== Sys2Proof/Config.lean ====
section
/-! DEFINITION. What is fixed for one machine, and the one value the spec leaves free (00_scope.md R5, 10_state.md R36).
The fixed numbers of R5 stand as numerals where they are used: 4096 bytes of memory, programs from 0x200, 16 registers,
16 stack entries, 16 keys, 64 by 32 pixels, 80 font bytes, ROM images of at most 3584 bytes. -/

namespace Sys2Proof

/-- TIMER_POLICY: which authority ticks the timers (R5, 60_exceptions.md R256). -/
inductive TimerPolicy where
  /-- Only TickTimers ticks; the default. -/
  | decoupled
  /-- Every Cycle that executes a word ticks once, and TickTimers does not exist. -/
  | cycleCoupled
  deriving DecidableEq, Repr

/-- The three parameters of R5. -/
structure Config where
  /-- TIMER_POLICY. -/
  timerPolicy : TimerPolicy
  /-- FONT: the bytes Initialize puts at 0x000..0x04F (R33). -/
  font : Vector Byte 80
  /-- PROTECT_LOW_MEMORY: whether Fx33 and Fx55 fault on a write below 0x200 (R53). -/
  protectLowMemory : Bool
  deriving DecidableEq, Repr

/-- RNG (R5, R36(a), 41_alu.md R151): the byte of the n-th draw, a draw under no law. It has no body, so nothing can be
proved about which byte it is. DESIGN CHOICE, log 5. -/
opaque Config.rngByte : Nat → Byte

end Sys2Proof
end

