-- ==== Sys2Proof/Machine/Memory.lean ====
section
/-! DEFINITION. The 4096-byte memory as a list of cells in one canonical form (10_state.md R31, 20_memory.md R50, R57). -/

namespace Sys2Proof.Machine

/-- The cells that differ from `resetByte`, by strictly rising address. -/
abbrev Memory := List Host.Cell

/-- What an unlisted address reads as: the byte Initialize leaves there, FONT at 0x000..0x04F and 0x00 elsewhere (R31,
R280). Addresses from 0x1000 on do not exist and no access reaches them (R52, R53); they are given 0 to keep the function
total, log 10. -/
def resetByte (c : Config) (a : Nat) : Byte := if h : a < 80 then c.font[a] else 0

/-- The byte at an address. -/
def Memory.read (c : Config) : Memory → Nat → Byte
  | [], a => resetByte c a
  | (b, v) :: m, a => if a = b then v else Memory.read c m a

/-- Puts a byte into the list, keeping the canonical form. -/
def Memory.insert (c : Config) : Memory → Nat → Byte → Memory
  | [], a, v => if v = resetByte c a then [] else [(a, v)]
  | (b, w) :: m, a, v =>
    if a < b then (if v = resetByte c a then (b, w) :: m else (a, v) :: (b, w) :: m)
    else if a = b then (if v = resetByte c a then m else (a, v) :: m)
    else (b, w) :: Memory.insert c m a v

/-- Sets the byte at an address; an address that does not exist holds nothing. -/
def Memory.write (c : Config) (m : Memory) (a : Nat) (v : Byte) : Memory :=
  if a < 4096 then Memory.insert c m a v else m

/-- The canonical form of a list whose addresses start at `lo` or above. -/
def Memory.wfFrom (c : Config) : Nat → Memory → Bool
  | _, [] => true
  | lo, (a, v) :: m => decide (lo ≤ a) && decide (a < 4096) && decide (v ≠ resetByte c a) && Memory.wfFrom c (a + 1) m

/-- The canonical form: addresses strictly rising and below 4096, and no cell equal to what an unlisted address reads as. -/
def Memory.wf (c : Config) (m : Memory) : Bool := Memory.wfFrom c 0 m

end Sys2Proof.Machine
end

