-- ==== Sys2Proof/Machine/Defaults.lean ====
section
/-! DEFINITION. The spec's default values of the three parameters (00_scope.md R5). -/

namespace Sys2Proof.Machine

/-- Glyphs 0 to 7 of R33's table, five bytes each. -/
def fontBytesLow : List Byte :=
  [0xF0, 0x90, 0x90, 0x90, 0xF0] ++ [0x20, 0x60, 0x20, 0x20, 0x70] ++
  [0xF0, 0x10, 0xF0, 0x80, 0xF0] ++ [0xF0, 0x10, 0xF0, 0x10, 0xF0] ++
  [0x90, 0x90, 0xF0, 0x10, 0x10] ++ [0xF0, 0x80, 0xF0, 0x10, 0xF0] ++
  [0xF0, 0x80, 0xF0, 0x90, 0xF0] ++ [0xF0, 0x10, 0x20, 0x40, 0x40]

/-- Glyphs 8 to F of R33's table. -/
def fontBytesHigh : List Byte :=
  [0xF0, 0x90, 0xF0, 0x90, 0xF0] ++ [0xF0, 0x90, 0xF0, 0x10, 0xF0] ++
  [0xF0, 0x90, 0xF0, 0x90, 0x90] ++ [0xE0, 0x90, 0xE0, 0x90, 0xE0] ++
  [0xF0, 0x80, 0x80, 0x80, 0xF0] ++ [0xE0, 0x90, 0x90, 0x90, 0xE0] ++
  [0xF0, 0x80, 0xF0, 0x80, 0xF0] ++ [0xF0, 0x80, 0xF0, 0x80, 0x80]

/-- The default FONT (10_state.md R33). PRESUMED: the spec itself takes these bytes from general knowledge, log 4. -/
def defaultFont : Vector Byte 80 := ⟨(fontBytesLow ++ fontBytesHigh).toArray, rfl⟩

/-- The defaults of R5: DECOUPLED, the conventional font, low memory protected. DESIGN CHOICE, log 3. -/
def defaultConfig : Config :=
  { timerPolicy := .decoupled, font := defaultFont, protectLowMemory := true }

end Sys2Proof.Machine
end

