-- ==== Sys2Proof/Machine/State.lean ====
section
/-! DEFINITION. The machine's state as plain data (10_state.md), and the state after reset (70_reset_and_hazards.md R280). -/

namespace Sys2Proof.Machine

/-- The five causes of an EngineFault (60_exceptions.md R241); their numbers are `FaultCode.number`. -/
inductive FaultCode where
  /-- Code 1: CALL with sp = 16. -/
  | stackOverflow
  /-- Code 2: RET with sp = 0. -/
  | stackUnderflow
  /-- Code 3: a byte access at an address of 0x1000 or above. -/
  | addressOutOfRange
  /-- Code 4: a byte write below 0x200 under PROTECT_LOW_MEMORY. -/
  | protectedWrite
  /-- Code 5: a key test with Vx of 16 or more. -/
  | keyIndexOutOfRange
  deriving DecidableEq, Repr

/-- What the latch records of an EngineFault (R35). -/
structure FaultRecord where
  code : FaultCode
  /-- The address of the faulting instruction word. -/
  addr : Word
  /-- The opcode word; 0x0000 when its fetch faulted. -/
  word : Word
  /-- The detail R241 names: the lowest failing address, the key index, or sp. -/
  info : Word
  deriving DecidableEq, Repr

/-- `Diagnostic(UnknownOpcode, word, addr)` (30_encoding.md R92). -/
structure Diagnostic where
  word : Word
  addr : Word
  deriving DecidableEq, Repr

/-- The host's transactions (60_exceptions.md R266). The random byte of Cycle is not an argument here: it is the free
value `Config.rngByte`, log 5. -/
inductive Txn where
  | cycle
  | tickTimers
  /-- `Initialize()` (70_reset_and_hazards.md R280). -/
  | initBlock
  /-- `LoadROM(src)`, with src = (readable, bytes) (R283). -/
  | loadRom (readable : Bool) (bytes : List Byte)
  /-- `SetKeyState(k, pressed)`, k any non-negative integer (60_exceptions.md R260). -/
  | setKeyState (k : Nat) (pressed : Bool)
  | getVideo
  | readTimers
  | readFault
  deriving DecidableEq, Repr

/-- What a transaction returns (R266). -/
inductive TxnResult where
  /-- The transaction has no result (TickTimers, Initialize, SetKeyState), or none was performed yet. -/
  | noResult
  /-- `Ok`, of Cycle or LoadROM. -/
  | ok
  /-- `Diag(word, addr)`, of Cycle. -/
  | diag (d : Diagnostic)
  /-- `Faulted(fault)`, of Cycle. -/
  | faulted (f : FaultRecord)
  /-- `IOError`, of LoadROM. -/
  | ioError
  /-- `CapacityError`, of LoadROM. -/
  | capacityError
  /-- The pixels, of GetVideo. -/
  | pixels (video : BitVec 2048)
  /-- `(DT, ST)`, of ReadTimers. -/
  | timers (dt st : Byte)
  /-- The latch, of ReadFault. -/
  | latch (f : Option FaultRecord)
  deriving DecidableEq, Repr

/-- Why a step could stop with a fault. No constructor: the block's one exception, the EngineFault, leaves it in a state the
spec describes, with the latch set (R242, R243), so it is a next state here. Safe, log 6. -/
inductive Fault : Type where
  deriving DecidableEq, Repr

/-- Why a step has no meaning. -/
inductive Refusal where
  /-- Raised by `exec` for an instruction whose meaning is not written. Safe. No arm answers it. -/
  | notModelled (mnemonic : String)
  /-- Raised by the transaction TickTimers under CYCLE_COUPLED, where it does not exist (R256). Safe, log 9. -/
  | tickTimersUnderCycleCoupled
  deriving DecidableEq, Repr

/-- The whole state. The first group is the spec's (10_state.md R20 to R35); the second is the fixed configuration (R36(d));
the third is the model's own (log 1, log 2, log 5). -/
structure State where
  /-- V0..VF (R20); VF is also the flag register (R21). -/
  v : Vector Byte 16
  /-- I (R22). -/
  idx : Word
  /-- pc (R23). -/
  pc : Word
  /-- stack[0..15] (R25). -/
  stack : Vector Word 16
  /-- sp, the count of stack entries in use, 0..16 (R26). -/
  sp : Fin 17
  /-- DT, the delay timer (R27). -/
  dt : Byte
  /-- ST, the sound timer (R28). -/
  st : Byte
  /-- key[0..15]; true is pressed (R29). -/
  key : Vector Bool 16
  /-- video[0..2047]: bit y·64 + x is the pixel at column x, row y (R30). -/
  video : BitVec 2048
  /-- mem[0x000..0xFFF] (R31): the bytes that differ from what reset leaves, by rising address. -/
  mem : List Host.Cell
  /-- The EngineFault latch (R35). -/
  fault : Option FaultRecord
  /-- TIMER_POLICY, FONT and PROTECT_LOW_MEMORY; never changed. -/
  cfg : Config
  /-- How many random bytes Cxnn has drawn. -/
  draws : Nat
  /-- The transactions the host has issued and the block has not yet performed, oldest first. -/
  pending : List Txn
  /-- The Diagnostic stream, oldest first (R92). -/
  diags : List Diagnostic
  /-- What the last transaction returned. -/
  result : TxnResult
  deriving DecidableEq, Repr

/-- The state Initialize leaves (R280), for a given configuration, with the model's own fields at their starting values. -/
def State.resetWith (c : Config) : State :=
  { v := Vector.replicate 16 0, idx := 0, pc := 0x200, stack := Vector.replicate 16 0, sp := 0, dt := 0, st := 0,
    key := Vector.replicate 16 false, video := 0, mem := [], fault := none,
    cfg := c, draws := 0, pending := [], diags := [], result := .noResult }

/-- The machine right after reset, under the spec's default parameters. -/
def State.reset : State := State.resetWith defaultConfig

end Sys2Proof.Machine
end

