-- ==== Sys2Proof/Machine/Ops.lean ====
section
/-! DEFINITION. The shared operations: registers, memory and its checks, taking an EngineFault and leaving it, the timers'
tick, fetch, and the end of a Cycle. -/

namespace Sys2Proof.Machine

/-- What a meaning or a transaction answers. -/
abbrev Result := Host.Outcome State Fault Refusal

/-! ### Registers -/

/-- `V[x]` (00_scope.md R7). -/
def State.reg (s : State) (x : Reg) : Byte := s.v[x.val]'x.isLt

/-- `V[x] <- b` (R7). No register is hardwired or aliased (10_state.md R20). -/
def State.setReg (s : State) (x : Reg) (b : Byte) : State := { s with v := s.v.set x.val b x.isLt }

/-- `pc <- pc + 2`, mod 2^16: the fetch advance (30_encoding.md R83) and a skip (40_flow.md) alike. -/
def State.advance (s : State) : State := { s with pc := s.pc + 2 }

/-! ### Memory -/

/-- The byte at an address (10_state.md R31). -/
def State.byteAt (s : State) (a : Nat) : Byte := Memory.read s.cfg s.mem a

/-- `mem[a] <- b`. -/
def State.setByte (s : State) (a : Nat) (b : Byte) : State := { s with mem := Memory.write s.cfg s.mem a b }

/-- The big-endian word at an address (20_memory.md R51). -/
def State.wordAt (s : State) (a : Nat) : Word := wordOfBytes (s.byteAt a) (s.byteAt (a + 1))

/-- Stores bytes at consecutive addresses from `base`. The addresses are distinct, so the order of the writes does not show. -/
def State.storeBytes (s : State) (base : Nat) : List Byte → State
  | [] => s
  | b :: bs => (s.storeBytes (base + 1) bs).setByte base b

/-- The fault a one-byte read raises (R52). -/
def readCheck (a : Nat) : Option FaultCode := if a ≤ 0xFFF then none else some .addressOutOfRange

/-- The fault a one-byte write raises (R53). -/
def writeCheck (c : Config) (a : Nat) : Option FaultCode :=
  if a > 0xFFF then some .addressOutOfRange
  else if c.protectLowMemory && decide (a < 0x200) then some .protectedWrite
  else none

/-- The lowest failing address of the `count` addresses from `base`, with its fault (R56). -/
def firstFailing (check : Nat → Option FaultCode) (base : Nat) : Nat → Option (FaultCode × Nat)
  | 0 => none
  | count + 1 =>
    match check base with
    | some code => some (code, base)
    | none => firstFailing check (base + 1) count

/-! ### The EngineFault -/

/-- The numbers of R241; the latch holds 0 for no fault. -/
def FaultCode.number : FaultCode → BitVec 3
  | .stackOverflow => 1
  | .stackUnderflow => 2
  | .addressOutOfRange => 3
  | .protectedWrite => 4
  | .keyIndexOutOfRange => 5

/-- Fault entry (60_exceptions.md R242): pc goes back to the faulting word, the latch takes the record, and nothing else
changes. There is no vector, no handler, no saved register and no mode. -/
def State.takeFault (s : State) (r : FaultRecord) : State := { s with pc := r.addr, fault := some r }

/-- `raise EngineFault(code, info)` by the instruction being executed (R7, R242). pc is two past its word (R83). A meaning
raises before it writes anything, so the word is still in memory and the rest of the state is the one the Cycle began with
(log 8). -/
def State.raise (s : State) (code : FaultCode) (info : Nat) : State :=
  s.takeFault { code := code, addr := s.pc - 2, word := s.wordAt (s.pc - 2).toNat, info := BitVec.ofNat 16 info }

/-- An instruction that touches memory: it faults at its lowest failing address, or completes in `t` (R56). -/
def State.unlessFailing (s : State) (failing : Option (FaultCode × Nat)) (t : State) : Result :=
  match failing with
  | some (code, a) => .next (s.raise code a)
  | none => .next t

/-- The one way out of a fault (R244): Initialize, which gives every element its reset value whatever the state before it
(70_reset_and_hazards.md R280, R281). The configuration, the random source, the host's queue and the Diagnostic stream are
not the block's state and stay. -/
def State.initialized (s : State) : State :=
  { State.resetWith s.cfg with draws := s.draws, pending := s.pending, diags := s.diags }

/-! ### Timers -/

/-- One timer's decrement, which stops at zero (60_exceptions.md R255). -/
def countDown (t : Byte) : Byte := if t = 0 then 0 else t - 1

/-- `Tick()` (R255). -/
def State.tick (s : State) : State := { s with dt := countDown s.dt, st := countDown s.st }

/-- The tick at the end of a Cycle, under CYCLE_COUPLED only (30_encoding.md R80, 60_exceptions.md R256). -/
def State.coupledTick (s : State) : State :=
  match s.cfg.timerPolicy with
  | .decoupled => s
  | .cycleCoupled => s.tick

/-! ### The parts of a Cycle -/

/-- Fetch (30_encoding.md R81): the word at pc, or the fault of the byte at pc, then of the byte at pc + 1. -/
def State.fetch (s : State) : Except (FaultCode × Nat) Word :=
  match firstFailing readCheck s.pc.toNat 2 with
  | some e => .error e
  | none => .ok (s.wordAt s.pc.toNat)

/-- A Cycle on a set latch: it returns the record again and changes nothing (60_exceptions.md R243). -/
def State.refault (s : State) (f : FaultRecord) : State := { s with result := .faulted f }

/-- A Cycle whose fetch faulted; the latch's word is 0x0000 (R80, R241). -/
def State.fetchFault (s : State) (code : FaultCode) (a : Nat) : State :=
  let r : FaultRecord := { code := code, addr := s.pc, word := 0, info := BitVec.ofNat 16 a }
  { s.takeFault r with result := .faulted r }

/-- A Cycle on an unrecognized word, from the state before the fetch advance: pc + 2, one Diagnostic, and the coupled tick
(30_encoding.md R92). -/
def State.unknownWord (s : State) (w : Word) : State :=
  let d : Diagnostic := { word := w, addr := s.pc }
  { s.advance.coupledTick with diags := s.diags ++ [d], result := .diag d }

/-- The end of a Cycle that executed an instruction: the coupled tick and `Ok`, or `Faulted` with no tick (R80, R242). -/
def State.endCycle (t : State) : State :=
  match t.fault with
  | none => { t.coupledTick with result := .ok }
  | some f => { t with result := .faulted f }

/-- The end of a Cycle, on what the meaning answered. -/
def finishCycle : Result → Result
  | .next t => .next t.endCycle
  | .fault r => .fault r
  | .refused r => .refused r

end Sys2Proof.Machine
end

