-- ==== Sys2Proof/Machine/Flags.lean ====
section
/-! DEFINITION. The flag values VF takes (41_alu.md R152); the collision flag is computed with the drawing
(43_display.md R204, Display.lean). -/

namespace Sys2Proof.Machine

/-- A flag is 0 or 1 (R152). -/
def flagByte (b : Bool) : Byte := if b then 1 else 0

/-- `V[F] <- flag` (10_state.md R21). -/
def State.setFlag (s : State) (b : Bool) : State := s.setReg 15 (flagByte b)

/-- Carry of 8xy4: the sum exceeds 255 (R146). -/
def carry (a b : Byte) : Bool := decide (a.toNat + b.toNat > 255)

/-- Not-borrow of 8xy5 and 8xy7, strict: minuend above subtrahend, 0 at equality (R147, R149, conflict C2). -/
def notBorrow (minuend subtrahend : Byte) : Bool := decide (minuend.toNat > subtrahend.toNat)

/-- The bit 8xy6 shifts out: bit 0 (R148). -/
def shiftedOutRight (a : Byte) : Bool := a.getLsbD 0

/-- The bit 8xyE shifts out: bit 7 (R150). -/
def shiftedOutLeft (a : Byte) : Bool := a.getLsbD 7

end Sys2Proof.Machine
end

