-- ==== Sys2Proof/Machine/Alu.lean ====
section
/-! DEFINITION. The register file and the ALU (41_alu.md). Statements run in order and each read sees the earlier writes of
the same instruction (00_scope.md R8), which decides every form whose x or y is VF. -/

namespace Sys2Proof.Machine

/-- LD Vx, nn (R140). -/
def execLdImm (x : Reg) (nn : Byte) (s : State) : Result := .next (s.setReg x nn)

/-- ADD Vx, nn (R141): no flag. -/
def execAddImm (x : Reg) (nn : Byte) (s : State) : Result := .next (s.setReg x (s.reg x + nn))

/-- LD Vx, Vy (R142). -/
def execLdReg (x y : Reg) (s : State) : Result := .next (s.setReg x (s.reg y))

/-- OR Vx, Vy (R143): VF is not written. -/
def execOrReg (x y : Reg) (s : State) : Result := .next (s.setReg x (s.reg x ||| s.reg y))

/-- AND Vx, Vy (R144). -/
def execAndReg (x y : Reg) (s : State) : Result := .next (s.setReg x (s.reg x &&& s.reg y))

/-- XOR Vx, Vy (R145). -/
def execXorReg (x y : Reg) (s : State) : Result := .next (s.setReg x (s.reg x ^^^ s.reg y))

/-- ADD Vx, Vy (R146): the sum is read before VF is written, and Vx is written after it. -/
def execAddReg (x y : Reg) (s : State) : Result :=
  .next ((s.setFlag (carry (s.reg x) (s.reg y))).setReg x (s.reg x + s.reg y))

/-- `V[x] <- a - b` after the flag write, reading the registers as the flag write left them (R147, R149). -/
def State.subtractInto (s : State) (x minuend subtrahend : Reg) : State :=
  s.setReg x (s.reg minuend - s.reg subtrahend)

/-- SUB Vx, Vy (R147): Vx - Vy. -/
def execSubReg (x y : Reg) (s : State) : Result :=
  .next ((s.setFlag (notBorrow (s.reg x) (s.reg y))).subtractInto x x y)

/-- SHR Vx (R148): y is ignored; Vx is read after the flag write. -/
def execShr (x _y : Reg) (s : State) : Result :=
  let t := s.setFlag (shiftedOutRight (s.reg x))
  .next (t.setReg x (t.reg x >>> 1))

/-- SUBN Vx, Vy (R149): Vy - Vx. -/
def execSubnReg (x y : Reg) (s : State) : Result :=
  .next ((s.setFlag (notBorrow (s.reg y) (s.reg x))).subtractInto x y x)

/-- SHL Vx (R150): y is ignored; Vx is read after the flag write. -/
def execShl (x _y : Reg) (s : State) : Result :=
  let t := s.setFlag (shiftedOutLeft (s.reg x))
  .next (t.setReg x (t.reg x <<< 1))

/-- RND Vx, nn (R151): one draw per execution, whatever nn is. The byte drawn is free, log 5. -/
def execRnd (x : Reg) (nn : Byte) (s : State) : Result :=
  .next ({ s with draws := s.draws + 1 }.setReg x (Config.rngByte s.draws &&& nn))

end Sys2Proof.Machine
end

