-- ==== Sys2Proof/Machine/Operands.lean ====
section
/-! DEFINITION. The operand forms beyond a plain register or immediate: effective addresses, register blocks, digits,
glyph addresses and keys. -/

namespace Sys2Proof.Machine

/-- The effective address of the k-th byte an instruction moves: `I + k`, unbounded (42_index_memory.md R186). -/
def State.ea (s : State) (k : Nat) : Nat := s.idx.toNat + k

/-- The values of V0..Vx, the operand of Fx55 (30_encoding.md R85). -/
def State.regsThrough (s : State) (x : Reg) : List Byte := s.v.toList.take (x.val + 1)

/-- V0..Vx loaded from consecutive bytes, the effect of Fx65. -/
def State.setRegsThrough (s : State) (x : Reg) (base : Nat) : State :=
  { s with v := Vector.ofFn fun k => if k.val ≤ x.val then s.byteAt (base + k.val) else s.reg k }

/-- The three decimal digits of a byte, most significant first (42_index_memory.md R183). -/
def bcdDigits (b : Byte) : List Byte :=
  [BitVec.ofNat 8 (b.toNat / 100), BitVec.ofNat 8 (b.toNat / 10 % 10), BitVec.ofNat 8 (b.toNat % 10)]

/-- The address of a glyph; the digit is not masked to 4 bits (R182). -/
def glyphAddress (b : Byte) : Word := BitVec.ofNat 16 (5 * b.toNat)

/-- The lowest-index pressed key, the operand of Fx0A (44_keypad_timers.md R223). -/
def State.lowestKey (s : State) : Option Nat := s.key.toList.findIdx? id

/-- Skips the next word when the condition holds. -/
def State.skipIf (s : State) (cond : Bool) : State := if cond then s.advance else s

/-- A key test (R220, R221): it faults on a key number above 15, and otherwise skips when the key's level is `level`. -/
def State.keyTest (s : State) (k : Byte) (level : Bool) : State :=
  if h : k.toNat < 16 then s.skipIf (s.key[k.toNat] == level) else s.raise .keyIndexOutOfRange k.toNat

end Sys2Proof.Machine
end

