-- ==== Sys2Proof/Machine/Display.lean ====
section
/-! DEFINITION. The framebuffer, sprites and the collision (43_display.md). -/

namespace Sys2Proof.Machine

/-- The framebuffer while a sprite is drawn, with the collision seen so far. -/
structure Canvas where
  video     : BitVec 2048
  collision : Bool
  deriving DecidableEq, Repr

/-- The index of a pixel: y·64 + x (10_state.md R30). -/
def pixelIndex (x y : Nat) : Nat := y * 64 + x

/-- The pixel at column x, row y. -/
def State.pixel (s : State) (x y : Nat) : Bool := s.video.getLsbD (pixelIndex x y)

/-- Column c of a sprite row; bit 7 is column 0 (R202). -/
def spriteBit (row : Byte) (c : Nat) : Bool := row.getLsbD (7 - c)

/-- An in-bounds set sprite bit flips its pixel, and collides if the pixel was 1; out of bounds it is dropped (R203, R204). -/
def Canvas.flip (k : Canvas) (x y : Nat) : Canvas :=
  if x < 64 ∧ y < 32 then
    { video := k.video ^^^ BitVec.twoPow 2048 (pixelIndex x y)
      collision := k.collision || k.video.getLsbD (pixelIndex x y) }
  else k

/-- The first `n` columns of one sprite row, from the left, at origin column x (R201's inner loop). -/
def Canvas.drawColumns (k : Canvas) (row : Byte) (x y : Nat) : Nat → Canvas
  | 0 => k
  | n + 1 =>
    let k' := k.drawColumns row x y n
    if spriteBit row n then k'.flip (x + n) y else k'

/-- The sprite's rows from the top (R201's outer loop). -/
def Canvas.drawRows (k : Canvas) (x y : Nat) : List Byte → Canvas
  | [] => k
  | row :: rows => (k.drawColumns row x y 8).drawRows x (y + 1) rows

/-- The n bytes of the sprite: `mem[I .. I+n-1]` (R202). -/
def State.spriteRows (s : State) (n : Nat) : List Byte := (List.range n).map fun r => s.byteAt (s.ea r)

/-- The state after a sprite is drawn: the pixels, then VF (R204). The origin is not reduced (R203). -/
def State.drawSprite (s : State) (x y : Reg) (n : Nat) : State :=
  let k := Canvas.drawRows { video := s.video, collision := false } (s.reg x).toNat (s.reg y).toNat (s.spriteRows n)
  { s with video := k.video }.setFlag k.collision

/-- CLS (R200). -/
def execCls (s : State) : Result := .next { s with video := 0 }

/-- DRW Vx, Vy, n (R201): every row's address is checked, clipped rows included. -/
def execDrw (x y : Reg) (n : Fin 16) (s : State) : Result :=
  s.unlessFailing (firstFailing readCheck (s.ea 0) n.val) (s.drawSprite x y n.val)

end Sys2Proof.Machine
end

