-- ==== Sys2Proof/Machine/Flow.lean ====
section
/-! DEFINITION. Control flow and the call stack (40_flow.md). Every meaning sees pc two past its own word (R83). -/

namespace Sys2Proof.Machine

/-- RET (R110). The popped entry keeps its value (10_state.md R25). -/
def execRet (s : State) : Result :=
  if h : s.sp.val = 0 then .next (s.raise .stackUnderflow 0)
  else
    have _ := s.sp.isLt
    .next { s with sp := ⟨s.sp.val - 1, by omega⟩, pc := s.stack[s.sp.val - 1] }

/-- JP nnn (R111). -/
def execJp (nnn : Addr) (s : State) : Result := .next { s with pc := nnn.toWord }

/-- CALL nnn (R112). -/
def execCall (nnn : Addr) (s : State) : Result :=
  if h : s.sp.val < 16 then
    .next { s with stack := s.stack.set s.sp.val s.pc h, sp := ⟨s.sp.val + 1, by omega⟩, pc := nnn.toWord }
  else .next (s.raise .stackOverflow 16)

/-- SE Vx, nn (R113). -/
def execSeImm (x : Reg) (nn : Byte) (s : State) : Result := .next (s.skipIf (s.reg x == nn))

/-- SNE Vx, nn (R114). -/
def execSneImm (x : Reg) (nn : Byte) (s : State) : Result := .next (s.skipIf (s.reg x != nn))

/-- SE Vx, Vy (R115). -/
def execSeReg (x y : Reg) (s : State) : Result := .next (s.skipIf (s.reg x == s.reg y))

/-- SNE Vx, Vy (R116). -/
def execSneReg (x y : Reg) (s : State) : Result := .next (s.skipIf (s.reg x != s.reg y))

/-- JP V0, nnn (R117): always V0, and the sum is not reduced to 12 bits. -/
def execJpV0 (nnn : Addr) (s : State) : Result := .next { s with pc := (s.reg 0).toWord + nnn.toWord }

end Sys2Proof.Machine
end

