-- ==== Sys2Proof/Machine/IndexMemory.lean ====
section
/-! DEFINITION. The index register and the memory moves (42_index_memory.md). Every address is checked before any is
accessed (20_memory.md R56), and I is never changed by a move (R186). -/

namespace Sys2Proof.Machine

/-- LD I, nnn (R180). -/
def execLdI (nnn : Addr) (s : State) : Result := .next { s with idx := nnn.toWord }

/-- ADD I, Vx (R181): mod 2^16, no flag. -/
def execAddI (x : Reg) (s : State) : Result := .next { s with idx := s.idx + (s.reg x).toWord }

/-- LD F, Vx (R182). -/
def execLdF (x : Reg) (s : State) : Result := .next { s with idx := glyphAddress (s.reg x) }

/-- Stores bytes from I on, after the write check of every one of them (R56). -/
def State.storeAtIndex (s : State) (bytes : List Byte) : Result :=
  s.unlessFailing (firstFailing (writeCheck s.cfg) (s.ea 0) bytes.length) (s.storeBytes (s.ea 0) bytes)

/-- LD B, Vx (R183). -/
def execLdB (x : Reg) (s : State) : Result := s.storeAtIndex (bcdDigits (s.reg x))

/-- LD [I], Vx (R184). -/
def execStoreRegs (x : Reg) (s : State) : Result := s.storeAtIndex (s.regsThrough x)

/-- LD Vx, [I] (R185). -/
def execLoadRegs (x : Reg) (s : State) : Result :=
  s.unlessFailing (firstFailing readCheck (s.ea 0) (x.val + 1)) (s.setRegsThrough x (s.ea 0))

end Sys2Proof.Machine
end

