-- ==== Sys2Proof/Machine/KeypadTimers.lean ====
section
/-! DEFINITION. The keypad and timer instructions (44_keypad_timers.md). -/

namespace Sys2Proof.Machine

/-- SKP Vx (R220). -/
def execSkp (x : Reg) (s : State) : Result := .next (s.keyTest (s.reg x) true)

/-- SKNP Vx (R221). -/
def execSknp (x : Reg) (s : State) : Result := .next (s.keyTest (s.reg x) false)

/-- LD Vx, K (R223): the lowest pressed key, or pc back at this word, to be executed again by the next Cycle. -/
def execLdVxK (x : Reg) (s : State) : Result :=
  match s.lowestKey with
  | some k => .next (s.setReg x (BitVec.ofNat 8 k))
  | none => .next { s with pc := s.pc - 2 }

/-- LD Vx, DT (R222). -/
def execLdVxDt (x : Reg) (s : State) : Result := .next (s.setReg x s.dt)

/-- LD DT, Vx (R224). -/
def execLdDtVx (x : Reg) (s : State) : Result := .next { s with dt := s.reg x }

/-- LD ST, Vx (R225). -/
def execLdStVx (x : Reg) (s : State) : Result := .next { s with st := s.reg x }

end Sys2Proof.Machine
end

