-- ==== Sys2Proof/Machine/Transactions.lean ====
section
/-! DEFINITION. The host's transactions other than Cycle (60_exceptions.md R266, 70_reset_and_hazards.md). Each is atomic and
works the same whether or not the latch is set (R243). -/

namespace Sys2Proof.Machine

/-- `TickTimers()` (R255, R256): under CYCLE_COUPLED it does not exist. -/
def txnTickTimers (s : State) : Result :=
  match s.cfg.timerPolicy with
  | .decoupled => .next { s.tick with result := .noResult }
  | .cycleCoupled => .refused .tickTimersUnderCycleCoupled

/-- `Initialize()` (R280). -/
def txnInitBlock (s : State) : Result := .next s.initialized

/-- `LoadROM(src)` (R283): both errors leave the state as it was; the image goes to 0x200 up, past the write protection. -/
def txnLoadRom (readable : Bool) (bytes : List Byte) (s : State) : Result :=
  if readable = false then .next { s with result := .ioError }
  else if bytes.length > 3584 then .next { s with result := .capacityError }
  else .next { s.storeBytes 0x200 bytes with result := .ok }

/-- `SetKeyState(k, pressed)` (R260): no effect for k of 16 or more. -/
def txnSetKeyState (k : Nat) (pressed : Bool) (s : State) : Result :=
  .next { s with key := if h : k < 16 then s.key.set k pressed h else s.key, result := .noResult }

/-- `GetVideo()` (R261). -/
def txnGetVideo (s : State) : Result := .next { s with result := .pixels s.video }

/-- `ReadTimers()` (R257). -/
def txnReadTimers (s : State) : Result := .next { s with result := .timers s.dt s.st }

/-- `ReadFault()` (R243). -/
def txnReadFault (s : State) : Result := .next { s with result := .latch s.fault }

end Sys2Proof.Machine
end

