-- ==== Sys2Proof/Machine/Step.lean ====
section
/-! DEFINITION. One step: the block performs one transaction of the host (00_scope.md R4, 60_exceptions.md R266). -/

namespace Sys2Proof.Machine

/-- `Cycle()` (30_encoding.md R80). -/
def cycle (s : State) : Host.Outcome State Fault Refusal :=
  match s.fault with
  | some f => .next (s.refault f)
  | none =>
    match s.fetch with
    | .error (code, a) => .next (s.fetchFault code a)
    | .ok w =>
      match decode w with
      | .error _ => .next (s.unknownWord w)
      | .ok i => finishCycle (exec i s.advance)

/-- One transaction (R266). -/
def perform (t : Txn) (s : State) : Host.Outcome State Fault Refusal :=
  match t with
  | .cycle => cycle s
  | .tickTimers => txnTickTimers s
  | .initBlock => txnInitBlock s
  | .loadRom readable bytes => txnLoadRom readable bytes s
  | .setKeyState k pressed => txnSetKeyState k pressed s
  | .getVideo => txnGetVideo s
  | .readTimers => txnReadTimers s
  | .readFault => txnReadFault s

/-- One step performs the oldest transaction the host has issued; with none issued, the host calls Cycle (log 1). -/
def step (s : State) : Host.Outcome State Fault Refusal :=
  match s.pending with
  | [] => cycle s
  | t :: rest => perform t { s with pending := rest }

/-- The state with a table word stored where the next step fetches: the two bytes at pc, high byte first, an empty queue and
a clear latch, so that the next step is a Cycle that runs it. The rest is unchanged (log 11). -/
def State.withFetchWord (s : State) (nbits w : Nat) : State :=
  let word : Word := BitVec.ofNat 16 (w % 2 ^ nbits)
  { s.storeBytes s.pc.toNat [hiByte word, loByte word] with pending := [], fault := none }

end Sys2Proof.Machine
end

