-- ==== Sys2Proof/Machine/Run.lean ====
section
/-! DEFINITION. The ends of a run (70_reset_and_hazards.md R290). The block defines none; a run ends from the host's side. -/

namespace Sys2Proof.Machine

/-- The three ends of R290; a claim about a run names the one it uses (92_eei_decisions.md D24). -/
inductive RunEnd where
  /-- The host stops issuing transactions. -/
  | hostStops
  /-- The latch is set (60_exceptions.md R243). -/
  | latchSet
  /-- pc stays at the address of a `JP` to itself (40_flow.md R111). -/
  | selfJump
  deriving DecidableEq, Repr

/-- The next Cycle runs a `JP` to its own address, and so leaves pc where it is (R111), log 16. -/
def State.atSelfJump (s : State) : Bool :=
  s.fault.isNone && decide (s.pc.toNat ≤ 0xFFE) &&
    decide (decode (s.wordAt s.pc.toNat) = .ok (.jp (BitVec.ofNat 12 s.pc.toNat)))

/-- Whether a run with this end has ended. The host has stopped where it has issued nothing more, log 16. -/
def State.runEnded (s : State) : RunEnd → Bool
  | .hostStops => s.pending.isEmpty
  | .latchSet => s.fault.isSome
  | .selfJump => s.atSelfJump

/-- A run of at most `n` steps with the end `e`. It stops between transactions and leaves the state as the last one left it
(R290). -/
def runUntil (e : RunEnd) : Nat → State → Result
  | 0, s => .next s
  | n + 1, s =>
    if s.runEnded e then .next s
    else
      match step s with
      | .next t => runUntil e n t
      | .fault r => .fault r
      | .refused r => .refused r

end Sys2Proof.Machine
end

