-- ==== Sys2Proof/Safety.lean ====
section
/-! DEFINITION. What the statements call a safe state and a ready block. -/

namespace Sys2Proof.Machine

/-- The memory's canonical form. -/
abbrev State.memWf (s : State) : Prop := Memory.wf s.cfg s.mem = true

/-- The next step is a Cycle that fetches: nothing queued, latch clear (60_exceptions.md R243, R245). -/
def State.Ready (s : State) : Prop := s.pending = [] ∧ s.fault = none

/-- What holds of every state the block reaches. -/
structure State.Inv (s : State) : Prop where
  /-- The memory is canonical. -/
  memCanonical : s.memWf
  /-- Every reachable pc is at most 0x10FE (10_state.md R24). -/
  pcBound : s.pc.toNat ≤ 0x10FE
  /-- A pushed return address is at most 0x1000 (R24). -/
  stackBound : ∀ k : Fin 16, (s.stack[k.val]'k.isLt).toNat ≤ 0x1000
  /-- With PROTECT_LOW_MEMORY the bytes below 0x200 stay as Initialize left them (R32). -/
  lowMemory : s.cfg.protectLowMemory = true → ∀ a, a < 0x200 → s.byteAt a = resetByte s.cfg a
  /-- A latched fault's pc is the faulting word's own address (60_exceptions.md R242). -/
  latchedPc : ∀ f, s.fault = some f → s.pc = f.addr

end Sys2Proof.Machine
end

