-- ==== Sys2Proof/Certificates/Slice0/Obligations.lean ====
section
/-! DEFINITION. The statements for the provers. Statements about `exec` take a state whose pc is two past the instruction's
own word, as every rule of the spec does (30_encoding.md R83). -/

namespace Sys2Proof.Claims

open Sys2Proof.Machine

/-- The word with this number decodes to this instruction. -/
def WordDecodes (word : Nat) (i : Instr) : Prop := decode (BitVec.ofNat 16 word) = .ok i

/-- Every byte of memory reads as before. -/
def SameBytes (s t : State) : Prop := ∀ a, t.byteAt a = s.byteAt a

/-- Every byte of memory outside the `count` bytes from `base` reads as before. -/
def SameBytesOutside (s t : State) (base count : Nat) : Prop :=
  ∀ a, a < base ∨ base + count ≤ a → t.byteAt a = s.byteAt a

/-- Every register but the listed ones keeps its value. -/
def RegsKeptBut (s t : State) (changed : List Reg) : Prop := ∀ r, r ∉ changed → t.reg r = s.reg r

/-- The answer is the fault entry of R242 by the instruction at pc - 2: pc back at its word, the latch set, the rest of the
state as it was. -/
def Raises (o : Result) (s : State) (code : FaultCode) (info : Nat) : Prop :=
  o = .next { s with
    pc := s.pc - 2
    fault := some { code := code, addr := s.pc - 2, word := s.wordAt (s.pc - 2).toNat, info := BitVec.ofNat 16 info } }

/-- The writes from I on are all allowed (20_memory.md R53). -/
def WritesAllowed (s : State) (count : Nat) : Prop :=
  s.idx.toNat + count ≤ 0x1000 ∧ (s.cfg.protectLowMemory = true → 0x200 ≤ s.idx.toNat)

/-- The bit of sprite row r, column c: bit 7 - c of the byte at I + r (43_display.md R202). -/
def SpriteBitSet (s : State) (r c : Nat) : Prop := (s.byteAt (s.idx.toNat + r)).toNat / 2 ^ (7 - c) % 2 = 1

/-- A set bit of the n-row sprite at I with origin (X, Y) lands on the pixel (px, py) (R203). -/
def SpriteHits (s : State) (n X Y px py : Nat) : Prop :=
  ∃ r c, r < n ∧ c < 8 ∧ px = X + c ∧ py = Y + r ∧ SpriteBitSet s r c

/-- The instructions that write VF as a flag (10_state.md R21). -/
def WritesFlag : Instr → Bool
  | .addReg _ _ | .subReg _ _ | .subnReg _ _ | .shr _ _ | .shl _ _ | .drw _ _ _ => true
  | .cls | .ret | .jp _ | .call _ | .seImm _ _ | .sneImm _ _ | .seReg _ _ | .ldImm _ _ | .addImm _ _ | .ldReg _ _
  | .orReg _ _ | .andReg _ _ | .xorReg _ _ | .sneReg _ _ | .ldI _ | .jpV0 _ | .rnd _ _ | .skp _ | .sknp _ | .ldVxDt _
  | .ldDtVx _ | .ldStVx _ | .addI _ | .ldVxK _ | .ldF _ | .ldB _ | .storeRegs _ | .loadRegs _ => false

/-- The register an instruction writes as data, where it writes one; Fx65 writes V0..Vx. -/
def WritesRegister (r : Reg) : Instr → Bool
  | .ldImm x _ | .addImm x _ | .ldReg x _ | .orReg x _ | .andReg x _ | .xorReg x _ | .addReg x _ | .subReg x _
  | .shr x _ | .subnReg x _ | .shl x _ | .rnd x _ | .ldVxDt x | .ldVxK x => r == x
  | .loadRegs x => decide (r.val ≤ x.val)
  | .cls | .ret | .jp _ | .call _ | .seImm _ _ | .sneImm _ _ | .seReg _ _ | .sneReg _ _ | .ldI _ | .jpV0 _ | .drw _ _ _
  | .skp _ | .sknp _ | .ldDtVx _ | .ldStVx _ | .addI _ | .ldF _ | .ldB _ | .storeRegs _ => false

/-- A timer after one tick (60_exceptions.md R255). -/
def Ticked (before after : Byte) : Prop := after.toNat = if before.toNat > 0 then before.toNat - 1 else 0

/-- A Cycle at this state gives this answer: a Cycle the host has issued, and the one it calls with nothing queued (log 1). -/
def CycleAnswers (s : State) (o : Result) : Prop := perform .cycle s = o ∧ (s.pending = [] → step s = o)

/-- The sixteen glyphs of 10_state.md R33. -/
def glyphs : List (List Byte) :=
  [[0xF0, 0x90, 0x90, 0x90, 0xF0], [0x20, 0x60, 0x20, 0x20, 0x70], [0xF0, 0x10, 0xF0, 0x80, 0xF0],
   [0xF0, 0x10, 0xF0, 0x10, 0xF0], [0x90, 0x90, 0xF0, 0x10, 0x10], [0xF0, 0x80, 0xF0, 0x10, 0xF0],
   [0xF0, 0x80, 0xF0, 0x90, 0xF0], [0xF0, 0x10, 0x20, 0x40, 0x40]] ++
  [[0xF0, 0x90, 0xF0, 0x90, 0xF0], [0xF0, 0x90, 0xF0, 0x10, 0xF0], [0xF0, 0x90, 0xF0, 0x90, 0x90],
   [0xE0, 0x90, 0xE0, 0x90, 0xE0], [0xF0, 0x80, 0x80, 0x80, 0xF0], [0xE0, 0x90, 0x90, 0x90, 0xE0],
   [0xF0, 0x80, 0xF0, 0x80, 0xF0], [0xF0, 0x80, 0xF0, 0x80, 0x80]]

end Sys2Proof.Claims

open Sys2Proof Sys2Proof.Machine Sys2Proof.Claims

/-! ### Encoding -/

/-- 30_encoding.md R82, R84, R88: no bit of an encoding is dropped, for all 34 instructions and every operand. -/
def Obligations.DecodeOfEncodeIsTheInstruction : Prop := ∀ i : Instr, decode (encode i) = .ok i

/-- R88, R89: a recognized word stands for one instruction and one instruction for one word. -/
def Obligations.EncodeOfDecodeIsTheWord : Prop := ∀ (w : Word) (i : Instr), decode w = .ok i → encode i = w

/-- R87, R90: the decoder accepts exactly the words a row of the table accepts, and rejects the others by name. -/
def Obligations.DecodeRecognizesExactlyTheTable : Prop :=
  ∀ w : Word,
    ((∃ i, decode w = .ok i) ↔ ∃ r ∈ opcodeRows, w &&& r.mask = r.fixed) ∧
    ((∀ r ∈ opcodeRows, w &&& r.mask ≠ r.fixed) → decode w = .error (.unknownOpcode w))

/-- R89: at most one row of the table's 34 accepts a word. -/
def Obligations.NoWordMatchesTwoRows : Prop :=
  opcodeRows.length = 34 ∧ ∀ w : Word, (opcodeRows.filter fun r => w &&& r.mask = r.fixed).length ≤ 1

/-- R82, R86: words written out from the patterns, one or more of every family 0 to F, and words of no row. -/
def Obligations.SampleWordsDecode : Prop :=
  decode 0x00E0 = .ok .cls ∧ decode 0x00EE = .ok .ret ∧ decode 0x1234 = .ok (.jp 0x234) ∧
  decode 0x2210 = .ok (.call 0x210) ∧ decode 0x3310 = .ok (.seImm 3 0x10) ∧ decode 0x6A5C = .ok (.ldImm 10 0x5C) ∧
  decode 0x70FF = .ok (.addImm 0 0xFF) ∧ decode 0xB300 = .ok (.jpV0 0x300) ∧
  decode 0x4311 = .ok (.sneImm 3 0x11) ∧ decode 0x5120 = .ok (.seReg 1 2) ∧ decode 0x8F1E = .ok (.shl 15 1) ∧
  decode 0x9120 = .ok (.sneReg 1 2) ∧ decode 0xA123 = .ok (.ldI 0x123) ∧ decode 0xC30F = .ok (.rnd 3 0x0F) ∧
  decode 0xD125 = .ok (.drw 1 2 5) ∧ decode 0xE1A1 = .ok (.sknp 1) ∧ decode 0xF21E = .ok (.addI 2) ∧
  decode 0xF155 = .ok (.storeRegs 1) ∧ decode 0x0123 = .error (.unknownOpcode 0x0123) ∧
  decode 0x5121 = .error (.unknownOpcode 0x5121)

/-! ### The step -/

/-- R81: fetch reads two bytes, the high one first, at any pc, odd or even; a pc of 0xFFF or above faults. -/
def Obligations.FetchReadsABigEndianWord : Prop :=
  ∀ s : State,
    (s.pc.toNat < 0xFFF → ∃ w : Word, s.fetch = .ok w ∧
      w.toNat = (s.byteAt s.pc.toNat).toNat * 256 + (s.byteAt (s.pc.toNat + 1)).toNat) ∧
    (0xFFF ≤ s.pc.toNat → ∃ a, s.fetch = .error (.addressOutOfRange, a) ∧ 0x1000 ≤ a)

/-- R80, R83: a Cycle whose word decodes runs the instruction on the state with pc advanced; then, if nothing was raised, the
timers tick under CYCLE_COUPLED and the result is Ok; if a fault was raised, the result is Faulted and nothing ticks. -/
def Obligations.StepRunsTheDecodedInstruction : Prop :=
  ∀ (s : State) (i : Instr), s.fault = none → s.pc.toNat ≤ 0xFFE →
    decode (wordOfBytes (s.byteAt s.pc.toNat) (s.byteAt (s.pc.toNat + 1))) = .ok i →
    CycleAnswers s (match exec i { s with pc := s.pc + 2 } with
      | .next t => .next (match t.fault, t.cfg.timerPolicy with
        | none, .decoupled => { t with result := .ok }
        | none, .cycleCoupled => { t with dt := countDown t.dt, st := countDown t.st, result := .ok }
        | some f, _ => { t with result := .faulted f })
      | .fault r => .fault r
      | .refused r => .refused r)

/-- The host's own placing of a word (log 11): the next step fetches exactly that word. -/
def Obligations.PlacedWordIsFetched : Prop :=
  ∀ (s : State) (w : Word), s.memWf → s.pc.toNat ≤ 0xFFE →
    let p := s.withFetchWord 16 w.toNat
    p.Ready ∧ p.pc = s.pc ∧ p.fetch = .ok w ∧ SameBytesOutside s p s.pc.toNat 2

/-- R243: a Cycle on a set latch returns the same record and changes nothing; ReadFault returns the latch; the other
transactions work and touch no fault-related state. -/
def Obligations.LatchedFaultIsSticky : Prop :=
  (∀ (s : State) (f : FaultRecord), s.fault = some f →
    perform .cycle s = .next { s with result := .faulted f } ∧
    (s.pending = [] → step s = .next { s with result := .faulted f })) ∧
  (∀ s : State, perform .readFault s = .next { s with result := .latch s.fault }) ∧
  (∀ (s u : State) (f : FaultRecord) (readable : Bool) (bytes : List Byte) (k : Nat) (pressed : Bool),
    ∀ t ∈ [Txn.setKeyState k pressed, .getVideo, .readTimers, .tickTimers, .loadRom readable bytes],
      perform t s = .next u → perform t { s with fault := some f } = .next { u with fault := some f })

/-- R81, R242, R245: a fetch at 0xFFF or above latches ADDRESS_OUT_OF_RANGE with word 0x0000 and the failing address, and
changes nothing else. -/
def Obligations.FetchBeyondMemoryLatchesAFault : Prop :=
  ∀ s : State, s.fault = none → 0xFFF ≤ s.pc.toNat →
    let r : FaultRecord :=
      { code := .addressOutOfRange, addr := s.pc, word := 0, info := if s.pc.toNat = 0xFFF then 0x1000 else s.pc }
    CycleAnswers s (.next { s with fault := some r, result := .faulted r })

/-- R92: a word of no row is passed over with one Diagnostic; nothing else changes but the coupled tick. -/
def Obligations.UnrecognizedWordIsANoOpWithADiagnostic : Prop :=
  ∀ s : State, s.fault = none → s.pc.toNat ≤ 0xFFE →
    let w := wordOfBytes (s.byteAt s.pc.toNat) (s.byteAt (s.pc.toNat + 1))
    (∀ r ∈ opcodeRows, w &&& r.mask ≠ r.fixed) →
    ∃ t, CycleAnswers s (.next t) ∧ t.pc.toNat = s.pc.toNat + 2 ∧ t.diags = s.diags ++ [⟨w, s.pc⟩] ∧
      t.result = .diag ⟨w, s.pc⟩ ∧ t = { s with pc := t.pc, dt := t.dt, st := t.st, diags := t.diags, result := t.result } ∧
      (s.cfg.timerPolicy = .decoupled → t.dt = s.dt ∧ t.st = s.st) ∧
      (s.cfg.timerPolicy = .cycleCoupled → Ticked s.dt t.dt ∧ Ticked s.st t.st)

/-- R242: when a Cycle raises a fault, the latch names the faulting word and its address, and every other element of the
state is as it was when the Cycle began: pc, registers, memory, pixels, stack, timers, Diagnostics. -/
def Obligations.FaultEntryIsPrecise : Prop :=
  ∀ (s t : State) (f : FaultRecord), s.fault = none →
    perform .cycle s = .next t ∨ (s.pending = [] ∧ step s = .next t) → t.fault = some f →
    f.addr = s.pc ∧
    f.word = (if s.pc.toNat < 0xFFF then wordOfBytes (s.byteAt s.pc.toNat) (s.byteAt (s.pc.toNat + 1)) else 0) ∧
    t = { s with fault := some f, result := .faulted f }

/-- R91, R92, R246, R256: no word, no fault and no transaction stops the block; the one thing refused is TickTimers under
CYCLE_COUPLED, where it does not exist (log 9). -/
def Obligations.OnlyTheMixedTickIsRefused : Prop :=
  ∀ s : State,
    (∃ t, step s = .next t) ∨
    (step s = .refused .tickTimersUnderCycleCoupled ∧ s.cfg.timerPolicy = .cycleCoupled ∧
      ∃ rest, s.pending = .tickTimers :: rest)

/-- R24 (derived in the spec), R31, R32, R242: what holds of every reachable state is kept by every transaction. -/
def Obligations.StepKeepsTheInvariant : Prop :=
  ∀ s t : State, s.Inv → step s = .next t → t.Inv

/-- The invariant holds at reset. -/
def Obligations.ResetMeetsTheInvariant : Prop := State.reset.Inv

/-- R256: under DECOUPLED an executed word does not tick and TickTimers does; under CYCLE_COUPLED an executed instruction
ticks once, after it executes, and TickTimers does not exist, which the model answers by a named refusal (log 9). -/
def Obligations.TimersHaveOneAuthority : Prop :=
  (∀ (s u : State) (i : Instr), s.fault = none → s.pc.toNat ≤ 0xFFE → decode (s.wordAt s.pc.toNat) = .ok i →
    exec i { s with pc := s.pc + 2 } = .next u → u.fault = none →
    ∃ t, CycleAnswers s (.next t) ∧ t = { u with dt := t.dt, st := t.st, result := .ok } ∧
      (s.cfg.timerPolicy = .decoupled → t.dt = u.dt ∧ t.st = u.st) ∧
      (s.cfg.timerPolicy = .cycleCoupled → Ticked u.dt t.dt ∧ Ticked u.st t.st)) ∧
  (∀ s : State, s.cfg.timerPolicy = .decoupled →
    ∃ t, perform .tickTimers s = .next t ∧ t = { s with dt := t.dt, st := t.st, result := .noResult } ∧
      Ticked s.dt t.dt ∧ Ticked s.st t.st) ∧
  (∀ s : State, s.cfg.timerPolicy = .cycleCoupled → perform .tickTimers s = .refused .tickTimersUnderCycleCoupled)

/-! ### Reset and the host's transactions -/

/-- R280: Initialize's effect on every element, from any state. -/
def Obligations.InitializeGivesEveryResetValue : Prop :=
  ∀ s : State, ∃ t, perform .initBlock s = .next t ∧
    (∀ (a : Nat) (h : a < 80), t.byteAt a = s.cfg.font[a]) ∧ (∀ a, 0x50 ≤ a → a < 0x1000 → t.byteAt a = 0) ∧
    (∀ x, t.reg x = 0) ∧ t.idx = 0 ∧ t.pc = 0x200 ∧ (∀ (k : Nat) (h : k < 16), t.stack[k] = 0) ∧ t.sp = 0 ∧
    t.dt = 0 ∧ t.st = 0 ∧ (∀ (k : Nat) (h : k < 16), t.key[k] = false) ∧
    (∀ x y, x < 64 → y < 32 → t.pixel x y = false) ∧ t.fault = none ∧
    t.cfg = s.cfg ∧ t.draws = s.draws

/-- R281: the result of Initialize does not depend on the state before it, and calling it twice is calling it once. -/
def Obligations.InitializeForgetsTheStateBefore : Prop :=
  (∀ s u : State, s.cfg = u.cfg → s.draws = u.draws → s.pending = u.pending → s.diags = u.diags →
    perform .initBlock s = perform .initBlock u) ∧
  (∀ s t : State, perform .initBlock s = .next t → perform .initBlock t = .next t)

/-- R20, R22, R23, R25 to R31, R35, R280: the values after reset. The parameters are the spec's defaults of R5, held in the
state by the model's choice (log 3); the font's bytes are R33's, which the spec takes from general knowledge (log 4). -/
def Obligations.ResetHoldsTheSpecsValues : Prop :=
  let s := State.reset
  (∀ x, s.reg x = 0) ∧ s.idx = 0 ∧ s.pc = 0x200 ∧ (∀ (k : Nat) (h : k < 16), s.stack[k] = 0) ∧ s.sp = 0 ∧ s.dt = 0 ∧
    s.st = 0 ∧ (∀ (k : Nat) (h : k < 16), s.key[k] = false) ∧ (∀ x y, x < 64 → y < 32 → s.pixel x y = false) ∧
    s.fault = none ∧ (∀ a, 80 ≤ a → a < 0x1000 → s.byteAt a = 0) ∧ (∀ a (h : a < 80), s.byteAt a = s.cfg.font[a]) ∧
    s.mem = [] ∧ s.cfg.timerPolicy = .decoupled ∧ s.cfg.protectLowMemory = true ∧ s.cfg.font.toList = glyphs.flatten ∧
    perform .initBlock s = .next s

/-- R283: the image is copied verbatim to 0x200 up and nothing else changes; an unreadable source or one of more than 3584
bytes changes no state. -/
def Obligations.LoadRomCopiesTheImage : Prop :=
  ∀ (s : State) (bytes : List Byte),
    perform (.loadRom false bytes) s = .next { s with result := .ioError } ∧
    (bytes.length > 3584 → perform (.loadRom true bytes) s = .next { s with result := .capacityError }) ∧
    (bytes.length ≤ 3584 → ∃ t, perform (.loadRom true bytes) s = .next t ∧
      t = { s with mem := t.mem, result := .ok } ∧ SameBytesOutside s t 0x200 bytes.length ∧
      (s.memWf → ∀ (k : Nat) (h : k < bytes.length), t.byteAt (0x200 + k) = bytes[k]))

/-- R260: one key's state is set; a key number of 16 or more changes nothing. -/
def Obligations.SetKeyStateSetsOneKey : Prop :=
  ∀ (s : State) (k : Nat) (pressed : Bool), ∃ t, perform (.setKeyState k pressed) s = .next t ∧
    t = { s with key := t.key, result := .noResult } ∧
    (∀ (j : Nat) (h : j < 16), t.key[j] = if j = k then pressed else s.key[j]) ∧
    (16 ≤ k → t.key = s.key)

/-- R243, R257, R261: the host's three reads return what they name and change nothing. R30: the pixel at column x, row y has
index y·64 + x, a bit of the model's one vector of pixels (log 14). -/
def Obligations.ReadTransactionsChangeNothing : Prop :=
  ∀ s : State,
    perform .getVideo s = .next { s with result := .pixels s.video } ∧
    perform .readTimers s = .next { s with result := .timers s.dt s.st } ∧
    perform .readFault s = .next { s with result := .latch s.fault } ∧
    (∀ x y, x < 64 → y < 32 → s.pixel x y = s.video.getLsbD (y * 64 + x))

/-- R32: the bytes below 0x200 stay as Initialize left them. No instruction changes one under PROTECT_LOW_MEMORY; from
outside only LoadROM, at 0x200 and above, and Initialize write memory. -/
def Obligations.LowMemoryIsKept : Prop :=
  (∀ (i : Instr) (s t : State), s.cfg.protectLowMemory = true → exec i s = .next t →
    ∀ a, a < 0x200 → t.byteAt a = s.byteAt a) ∧
  (∀ (s t : State) (readable : Bool) (bytes : List Byte), perform (.loadRom readable bytes) s = .next t →
    ∀ a, a < 0x200 → t.byteAt a = s.byteAt a) ∧
  (∀ (s t : State) (k : Nat) (pressed : Bool),
    ∀ x ∈ [Txn.tickTimers, .setKeyState k pressed, .getVideo, .readTimers, .readFault],
      perform x s = .next t → SameBytes s t) ∧
  (∀ s t : State, perform .initBlock s = .next t → ∀ (a : Nat) (h : a < 80), t.byteAt a = s.cfg.font[a])

/-! ### Control flow -/

/-- 40_flow.md R111, R117: the jumps. -/
def Obligations.JumpsSetPc : Prop :=
  ∀ (nnn : Addr) (s : State),
    (WordDecodes (0x1000 + nnn.toNat) (.jp nnn) ∧
      ∃ t, exec (.jp nnn) s = .next t ∧ t.pc.toNat = nnn.toNat ∧ t = { s with pc := t.pc } ∧ SameBytes s t) ∧
    (WordDecodes (0xB000 + nnn.toNat) (.jpV0 nnn) ∧
      ∃ t, exec (.jpV0 nnn) s = .next t ∧ t.pc.toNat = (s.reg 0).toNat + nnn.toNat ∧ t = { s with pc := t.pc } ∧
        SameBytes s t)

/-- R112: CALL pushes the return address, or faults when 16 entries are in use. -/
def Obligations.CallPushesTheReturnAddress : Prop :=
  ∀ (nnn : Addr) (s : State), WordDecodes (0x2000 + nnn.toNat) (.call nnn) ∧
    (s.sp.val < 16 → ∃ t, exec (.call nnn) s = .next t ∧ t.pc.toNat = nnn.toNat ∧ t.sp.val = s.sp.val + 1 ∧
      (∀ (k : Nat) (h : k < 16), t.stack[k] = if k = s.sp.val then s.pc else s.stack[k]) ∧
      t = { s with pc := t.pc, sp := t.sp, stack := t.stack } ∧ SameBytes s t) ∧
    (s.sp.val = 16 → Raises (exec (.call nnn) s) s .stackOverflow 16)

/-- R110: RET pops the return address and leaves the entry, or faults when no entry is in use. -/
def Obligations.ReturnPopsTheReturnAddress : Prop :=
  ∀ s : State, WordDecodes 0x00EE .ret ∧
    (∀ n (h : n < 16), s.sp.val = n + 1 → ∃ t, exec .ret s = .next t ∧ t.pc = s.stack[n] ∧ t.sp.val = n ∧
      t = { s with pc := t.pc, sp := t.sp } ∧ SameBytes s t) ∧
    (s.sp.val = 0 → Raises (exec .ret s) s .stackUnderflow 0)

/-- 95_test_vectors.md S6 (R110, R112): RET after CALL, with any code between that keeps the stack, resumes after the CALL. -/
def Obligations.ReturnUndoesCall : Prop :=
  ∀ (nnn : Addr) (s t u : State), s.sp.val < 16 → exec (.call nnn) s = .next t → u.stack = t.stack → u.sp = t.sp →
    ∃ v, exec .ret u = .next v ∧ v.pc = s.pc ∧ v.sp = s.sp

/-- R113 to R116: the four compares skip exactly one word, or none, and change pc alone. -/
def Obligations.ComparesSkipOneWord : Prop :=
  ∀ (x y : Reg) (nn : Byte) (s : State),
    (WordDecodes (0x3000 + x.val * 256 + nn.toNat) (.seImm x nn) ∧
      ∃ t, exec (.seImm x nn) s = .next t ∧ t.pc = (if s.reg x = nn then s.pc + 2 else s.pc) ∧
        t = { s with pc := t.pc } ∧ SameBytes s t) ∧
    (WordDecodes (0x4000 + x.val * 256 + nn.toNat) (.sneImm x nn) ∧
      ∃ t, exec (.sneImm x nn) s = .next t ∧ t.pc = (if s.reg x = nn then s.pc else s.pc + 2) ∧
        t = { s with pc := t.pc } ∧ SameBytes s t) ∧
    (WordDecodes (0x5000 + x.val * 256 + y.val * 16) (.seReg x y) ∧
      ∃ t, exec (.seReg x y) s = .next t ∧ t.pc = (if s.reg x = s.reg y then s.pc + 2 else s.pc) ∧
        t = { s with pc := t.pc } ∧ SameBytes s t) ∧
    (WordDecodes (0x9000 + x.val * 256 + y.val * 16) (.sneReg x y) ∧
      ∃ t, exec (.sneReg x y) s = .next t ∧ t.pc = (if s.reg x = s.reg y then s.pc else s.pc + 2) ∧
        t = { s with pc := t.pc } ∧ SameBytes s t)

/-! ### Registers and ALU -/

/-- 41_alu.md R140, R141, R142: loads and the flagless immediate add; VF keeps its value unless x is F. -/
def Obligations.LoadsAndImmediateAdd : Prop :=
  ∀ (x y : Reg) (nn : Byte) (s : State),
    (WordDecodes (0x6000 + x.val * 256 + nn.toNat) (.ldImm x nn) ∧
      ∃ t, exec (.ldImm x nn) s = .next t ∧ t.reg x = nn ∧ RegsKeptBut s t [x] ∧ t = { s with v := t.v } ∧
        SameBytes s t) ∧
    (WordDecodes (0x7000 + x.val * 256 + nn.toNat) (.addImm x nn) ∧
      ∃ t, exec (.addImm x nn) s = .next t ∧ (t.reg x).toNat = ((s.reg x).toNat + nn.toNat) % 256 ∧
        RegsKeptBut s t [x] ∧ t = { s with v := t.v } ∧ SameBytes s t) ∧
    (WordDecodes (0x8000 + x.val * 256 + y.val * 16) (.ldReg x y) ∧
      ∃ t, exec (.ldReg x y) s = .next t ∧ t.reg x = s.reg y ∧ RegsKeptBut s t [x] ∧ t = { s with v := t.v } ∧
        SameBytes s t)

/-- R143, R144, R145: the bitwise operations, bit by bit; VF keeps its value unless x is F. -/
def Obligations.BitwiseOperations : Prop :=
  ∀ (x y : Reg) (s : State),
    (WordDecodes (0x8001 + x.val * 256 + y.val * 16) (.orReg x y) ∧
      ∃ t, exec (.orReg x y) s = .next t ∧
        (∀ k, (t.reg x).getLsbD k = ((s.reg x).getLsbD k || (s.reg y).getLsbD k)) ∧
        RegsKeptBut s t [x] ∧ t = { s with v := t.v } ∧ SameBytes s t) ∧
    (WordDecodes (0x8002 + x.val * 256 + y.val * 16) (.andReg x y) ∧
      ∃ t, exec (.andReg x y) s = .next t ∧
        (∀ k, (t.reg x).getLsbD k = ((s.reg x).getLsbD k && (s.reg y).getLsbD k)) ∧
        RegsKeptBut s t [x] ∧ t = { s with v := t.v } ∧ SameBytes s t) ∧
    (WordDecodes (0x8003 + x.val * 256 + y.val * 16) (.xorReg x y) ∧
      ∃ t, exec (.xorReg x y) s = .next t ∧
        (∀ k, (t.reg x).getLsbD k = ((s.reg x).getLsbD k != (s.reg y).getLsbD k)) ∧
        RegsKeptBut s t [x] ∧ t = { s with v := t.v } ∧ SameBytes s t)

/-- R146: the sum of the old values, and the carry in VF unless x is F, where the sum stays
(the order of the two writes is the spec's decision D2, log 12). -/
def Obligations.AddWithCarry : Prop :=
  ∀ (x y : Reg) (s : State), WordDecodes (0x8004 + x.val * 256 + y.val * 16) (.addReg x y) ∧
    let sum := (s.reg x).toNat + (s.reg y).toNat
    ∃ t, exec (.addReg x y) s = .next t ∧ (t.reg x).toNat = sum % 256 ∧
      (x ≠ 15 → (t.reg 15).toNat = if sum > 255 then 1 else 0) ∧
      RegsKeptBut s t [x, 15] ∧ t = { s with v := t.v } ∧ SameBytes s t

/-- R147: Vx - Vy with the strict not-borrow in VF, and the forms whose x or y is VF, where the subtraction reads the new
VF (the spec's decisions D2 and D29, log 12). -/
def Obligations.SubtractWithNotBorrow : Prop :=
  ∀ (x y : Reg) (s : State), WordDecodes (0x8005 + x.val * 256 + y.val * 16) (.subReg x y) ∧
    let f := if (s.reg x).toNat > (s.reg y).toNat then 1 else 0
    ∃ t, exec (.subReg x y) s = .next t ∧
      (x ≠ 15 → (t.reg 15).toNat = f) ∧
      (x ≠ 15 → y ≠ 15 → (t.reg x).toNat = ((s.reg x).toNat + 256 - (s.reg y).toNat) % 256) ∧
      (x ≠ 15 → y = 15 → (t.reg x).toNat = ((s.reg x).toNat + 256 - f) % 256) ∧
      (x = 15 → y ≠ 15 → (t.reg 15).toNat = (f + 256 - (s.reg y).toNat) % 256) ∧
      (x = 15 → y = 15 → t.reg 15 = 0) ∧
      RegsKeptBut s t [x, 15] ∧ t = { s with v := t.v } ∧ SameBytes s t

/-- R149: Vy - Vx with the strict not-borrow in VF, and the forms whose x or y is VF (D2 and
D29, log 12). -/
def Obligations.ReverseSubtractWithNotBorrow : Prop :=
  ∀ (x y : Reg) (s : State), WordDecodes (0x8007 + x.val * 256 + y.val * 16) (.subnReg x y) ∧
    let f := if (s.reg y).toNat > (s.reg x).toNat then 1 else 0
    ∃ t, exec (.subnReg x y) s = .next t ∧
      (x ≠ 15 → (t.reg 15).toNat = f) ∧
      (x ≠ 15 → y ≠ 15 → (t.reg x).toNat = ((s.reg y).toNat + 256 - (s.reg x).toNat) % 256) ∧
      (x ≠ 15 → y = 15 → (t.reg x).toNat = (f + 256 - (s.reg x).toNat) % 256) ∧
      (x = 15 → y ≠ 15 → (t.reg 15).toNat = ((s.reg y).toNat + 256 - f) % 256) ∧
      (x = 15 → y = 15 → t.reg 15 = 0) ∧
      RegsKeptBut s t [x, 15] ∧ t = { s with v := t.v } ∧ SameBytes s t

/-- R148, R150: the shifts of Vx by one with the bit shifted out in VF, whatever y is; with x = F the shifted flag stays
(D2, log 12). -/
def Obligations.ShiftsByOne : Prop :=
  ∀ (x y : Reg) (s : State),
    (WordDecodes (0x8006 + x.val * 256 + y.val * 16) (.shr x y) ∧
      ∃ t, exec (.shr x y) s = .next t ∧
        (x ≠ 15 → (t.reg x).toNat = (s.reg x).toNat / 2 ∧ (t.reg 15).toNat = (s.reg x).toNat % 2) ∧
        (x = 15 → t.reg 15 = 0) ∧ RegsKeptBut s t [x, 15] ∧ t = { s with v := t.v } ∧ SameBytes s t) ∧
    (WordDecodes (0x800E + x.val * 256 + y.val * 16) (.shl x y) ∧
      ∃ t, exec (.shl x y) s = .next t ∧
        (x ≠ 15 → (t.reg x).toNat = 2 * (s.reg x).toNat % 256 ∧ (t.reg 15).toNat = (s.reg x).toNat / 128) ∧
        (x = 15 → (t.reg 15).toNat = 2 * ((s.reg 15).toNat / 128)) ∧
        RegsKeptBut s t [x, 15] ∧ t = { s with v := t.v } ∧ SameBytes s t)

/-- R151: one draw per execution, masked by nn; which byte is drawn is free (log 5), so the statement says of Vx only that
it is the draw masked. -/
def Obligations.RandomByteIsMasked : Prop :=
  ∀ (x : Reg) (nn : Byte) (s : State), WordDecodes (0xC000 + x.val * 256 + nn.toNat) (.rnd x nn) ∧
    ∃ t, exec (.rnd x nn) s = .next t ∧
      (∀ k, (t.reg x).getLsbD k = ((Config.rngByte s.draws).getLsbD k && nn.getLsbD k)) ∧
      (nn = 0 → t.reg x = 0) ∧ t.draws = s.draws + 1 ∧
      RegsKeptBut s t [x] ∧ t = { s with v := t.v, draws := t.draws } ∧ SameBytes s t

/-- R21, R152, R9: a register changes only where an instruction names it as its destination; VF changes also by the six
instructions that write it as a flag, and by no other. -/
def Obligations.OnlyNamedRegistersChange : Prop :=
  ∀ (i : Instr) (s t : State) (r : Reg), exec i s = .next t → WritesRegister r i = false →
    (r = 15 → WritesFlag i = false) → t.reg r = s.reg r

/-! ### Index and memory -/

/-- 42_index_memory.md R180, R181, R182: the writes of I, with no flag and no fault. -/
def Obligations.IndexWrites : Prop :=
  ∀ (x : Reg) (nnn : Addr) (s : State),
    (WordDecodes (0xA000 + nnn.toNat) (.ldI nnn) ∧
      ∃ t, exec (.ldI nnn) s = .next t ∧ t.idx.toNat = nnn.toNat ∧ t = { s with idx := t.idx } ∧ SameBytes s t) ∧
    (WordDecodes (0xF01E + x.val * 256) (.addI x) ∧
      ∃ t, exec (.addI x) s = .next t ∧ t.idx.toNat = (s.idx.toNat + (s.reg x).toNat) % 65536 ∧
        t = { s with idx := t.idx } ∧ SameBytes s t) ∧
    (WordDecodes (0xF029 + x.val * 256) (.ldF x) ∧
      ∃ t, exec (.ldF x) s = .next t ∧ t.idx.toNat = 5 * (s.reg x).toNat ∧ t = { s with idx := t.idx } ∧ SameBytes s t)

/-- R183: the three digits at I, I + 1, I + 2, and nothing else; or the fault at the lowest failing address. -/
def Obligations.StoreDecimalDigits : Prop :=
  ∀ (x : Reg) (s : State), WordDecodes (0xF033 + x.val * 256) (.ldB x) ∧
    (WritesAllowed s 3 → ∃ t, exec (.ldB x) s = .next t ∧ t = { s with mem := t.mem } ∧
      SameBytesOutside s t (s.ea 0) 3 ∧
      (s.memWf → (t.byteAt s.idx.toNat).toNat = (s.reg x).toNat / 100 ∧
        (t.byteAt (s.idx.toNat + 1)).toNat = (s.reg x).toNat / 10 % 10 ∧
        (t.byteAt (s.idx.toNat + 2)).toNat = (s.reg x).toNat % 10)) ∧
    (s.cfg.protectLowMemory = true → s.idx.toNat < 0x200 →
      Raises (exec (.ldB x) s) s .protectedWrite s.idx.toNat) ∧
    (0x1000 < s.idx.toNat + 3 → Raises (exec (.ldB x) s) s .addressOutOfRange (max s.idx.toNat 0x1000))

/-- R184: V0..Vx at I .. I + x, and nothing else; or the fault at the lowest failing address. -/
def Obligations.StoreRegisterBlock : Prop :=
  ∀ (x : Reg) (s : State), WordDecodes (0xF055 + x.val * 256) (.storeRegs x) ∧
    (WritesAllowed s (x.val + 1) → ∃ t, exec (.storeRegs x) s = .next t ∧ t = { s with mem := t.mem } ∧
      SameBytesOutside s t (s.ea 0) (x.val + 1) ∧
      (s.memWf → ∀ k : Reg, k.val ≤ x.val → t.byteAt (s.idx.toNat + k.val) = s.reg k)) ∧
    (s.cfg.protectLowMemory = true → s.idx.toNat < 0x200 →
      Raises (exec (.storeRegs x) s) s .protectedWrite s.idx.toNat) ∧
    (0x1000 < s.idx.toNat + (x.val + 1) →
      Raises (exec (.storeRegs x) s) s .addressOutOfRange (max s.idx.toNat 0x1000))

/-- R185: V0..Vx from I .. I + x, also below 0x200; or the fault at the lowest failing address. -/
def Obligations.LoadRegisterBlock : Prop :=
  ∀ (x : Reg) (s : State), WordDecodes (0xF065 + x.val * 256) (.loadRegs x) ∧
    (s.idx.toNat + (x.val + 1) ≤ 0x1000 → ∃ t, exec (.loadRegs x) s = .next t ∧ t = { s with v := t.v } ∧
      (∀ k : Reg, t.reg k = if k.val ≤ x.val then s.byteAt (s.idx.toNat + k.val) else s.reg k) ∧ SameBytes s t) ∧
    (0x1000 < s.idx.toNat + (x.val + 1) →
      Raises (exec (.loadRegs x) s) s .addressOutOfRange (max s.idx.toNat 0x1000))

/-- R184, R185, R59: a block stored and loaded back gives V0..Vx their old values, whatever happened to them between. -/
def Obligations.LoadAfterStoreRestoresTheRegisters : Prop :=
  ∀ (x : Reg) (s t u : State), s.memWf → WritesAllowed s (x.val + 1) → exec (.storeRegs x) s = .next t →
    u.mem = t.mem → u.cfg = t.cfg → u.idx = t.idx →
    ∃ v, exec (.loadRegs x) u = .next v ∧ ∀ k : Reg, k.val ≤ x.val → v.reg k = s.reg k

/-- 20_memory.md R56: a memory instruction that faults names an address that fails, every lower address it touches passes,
and nothing but pc and the latch changes. -/
def Obligations.LowestFailingAddressIsReported : Prop :=
  ∀ (i : Instr) (s t : State) (f : FaultRecord), s.fault = none → exec i s = .next t → t.fault = some f →
    f.code = .addressOutOfRange ∨ f.code = .protectedWrite →
    ∃ a, s.idx.toNat ≤ a ∧ a ≤ s.idx.toNat + 15 ∧ f.info = BitVec.ofNat 16 a ∧
      (f.code = .addressOutOfRange → 0x1000 ≤ a ∧ ∀ b, s.idx.toNat ≤ b → b < a → b < 0x1000) ∧
      (f.code = .protectedWrite → a = s.idx.toNat ∧ a < 0x200 ∧ s.cfg.protectLowMemory = true) ∧
      t = { s with pc := s.pc - 2, fault := some f }

/-- 20_memory.md R50, R57, 10_state.md R22: only Fx33 and Fx55 write memory, and only Annn, Fx1E and Fx29 write I. -/
def Obligations.OnlyNamedInstructionsWriteMemoryAndI : Prop :=
  ∀ (i : Instr) (s t : State), exec i s = .next t →
    ((∀ x, i ≠ .ldB x) → (∀ x, i ≠ .storeRegs x) → SameBytes s t ∧ t.mem = s.mem) ∧
    ((∀ n, i ≠ .ldI n) → (∀ x, i ≠ .addI x) → (∀ x, i ≠ .ldF x) → t.idx = s.idx)

/-! ### Display -/

/-- 43_display.md R200: CLS clears every pixel and changes nothing else. -/
def Obligations.ClearTheFramebuffer : Prop :=
  ∀ s : State, WordDecodes 0x00E0 .cls ∧
    ∃ t, exec .cls s = .next t ∧ (∀ x y, t.pixel x y = false) ∧ t = { s with video := t.video } ∧ SameBytes s t

/-- R202, R203, R204: a pixel is flipped exactly when a set sprite bit lands on it in bounds; VF is 1 exactly when one of
those pixels was 1 before; the origin is not reduced and nothing wraps. With rows at or above 0x1000 it faults and nothing is
drawn. The bit order is general knowledge in R202 itself and the unreduced origin is decision D12 (log 12). -/
def Obligations.DrawFlipsTheSpritesPixels : Prop :=
  ∀ (x y : Reg) (n : Fin 16) (s : State),
    WordDecodes (0xD000 + x.val * 256 + y.val * 16 + n.val) (.drw x y n) ∧
    let hits := SpriteHits s n.val (s.reg x).toNat (s.reg y).toNat
    (n.val = 0 ∨ s.idx.toNat + n.val ≤ 0x1000 → ∃ t, exec (.drw x y n) s = .next t ∧
      (∀ px py, px < 64 → py < 32 →
        (hits px py → t.pixel px py = !s.pixel px py) ∧ (¬hits px py → t.pixel px py = s.pixel px py)) ∧
      ((∃ px py, px < 64 ∧ py < 32 ∧ hits px py ∧ s.pixel px py = true) → t.reg 15 = 1) ∧
      (¬(∃ px py, px < 64 ∧ py < 32 ∧ hits px py ∧ s.pixel px py = true) → t.reg 15 = 0) ∧
      RegsKeptBut s t [15] ∧ t = { s with v := t.v, video := t.video } ∧ SameBytes s t) ∧
    (n.val ≠ 0 → 0x1000 < s.idx.toNat + n.val →
      Raises (exec (.drw x y n) s) s .addressOutOfRange (max s.idx.toNat 0x1000))

/-- S4, R201, conflict C6: drawing the same sprite twice at the same origin restores the framebuffer, and the second draw
collides exactly when some pixel under a set in-bounds sprite bit was 0 to begin with (log 13). The origin is the same
where the first draw left its registers as they were: always, unless one is VF and the collision changed it. -/
def Obligations.DrawingTwiceRestoresTheFramebuffer : Prop :=
  ∀ (x y : Reg) (n : Fin 16) (s : State), n.val = 0 ∨ s.idx.toNat + n.val ≤ 0x1000 →
    let hits := SpriteHits s n.val (s.reg x).toNat (s.reg y).toNat
    ∃ t, exec (.drw x y n) s = .next t ∧ (x ≠ 15 → t.reg x = s.reg x) ∧ (y ≠ 15 → t.reg y = s.reg y) ∧
      (t.reg x = s.reg x → t.reg y = s.reg y → ∃ u, exec (.drw x y n) t = .next u ∧
        (∀ px py, px < 64 → py < 32 → u.pixel px py = s.pixel px py) ∧
        (u.reg 15 = 1 ↔ ∃ px py, px < 64 ∧ py < 32 ∧ hits px py ∧ s.pixel px py = false))

/-- 10_state.md R30: only 00E0 and Dxyn write the framebuffer. -/
def Obligations.OnlyClearAndDrawWriteTheFramebuffer : Prop :=
  ∀ (i : Instr) (s t : State), exec i s = .next t → i ≠ .cls → (∀ x y n, i ≠ .drw x y n) → t.video = s.video

/-! ### Keypad and timers -/

/-- 44_keypad_timers.md R220, R221: the key tests read the key's level; a key number above 15 faults. -/
def Obligations.KeyTestsSkip : Prop :=
  ∀ (x : Reg) (s : State),
    WordDecodes (0xE09E + x.val * 256) (.skp x) ∧ WordDecodes (0xE0A1 + x.val * 256) (.sknp x) ∧
    (∀ h : (s.reg x).toNat < 16,
      (∃ t, exec (.skp x) s = .next t ∧ t.pc = (if s.key[(s.reg x).toNat] = true then s.pc + 2 else s.pc) ∧
        t = { s with pc := t.pc } ∧ SameBytes s t) ∧
      (∃ t, exec (.sknp x) s = .next t ∧ t.pc = (if s.key[(s.reg x).toNat] = true then s.pc else s.pc + 2) ∧
        t = { s with pc := t.pc } ∧ SameBytes s t)) ∧
    (16 ≤ (s.reg x).toNat →
      Raises (exec (.skp x) s) s .keyIndexOutOfRange (s.reg x).toNat ∧
      Raises (exec (.sknp x) s) s .keyIndexOutOfRange (s.reg x).toNat)

/-- R223: with a key pressed, Vx takes the lowest-index one; with none, pc goes back to this word and nothing else changes. -/
def Obligations.KeyWaitTakesTheLowestKey : Prop :=
  ∀ (x : Reg) (s : State), WordDecodes (0xF00A + x.val * 256) (.ldVxK x) ∧
    (∀ (k : Nat) (h : k < 16), s.key[k] = true → (∀ (j : Nat) (hj : j < k), s.key[j] = false) →
      ∃ t, exec (.ldVxK x) s = .next t ∧ (t.reg x).toNat = k ∧ RegsKeptBut s t [x] ∧ t = { s with v := t.v } ∧
        SameBytes s t) ∧
    ((∀ (k : Nat) (h : k < 16), s.key[k] = false) →
      ∃ t, exec (.ldVxK x) s = .next t ∧ t.pc = s.pc - 2 ∧ t = { s with pc := t.pc } ∧ SameBytes s t)

/-- R223, S7: while no key is pressed, any number of Cycles leaves the block waiting at the same word, with its registers and
memory, no fault and no Diagnostic. -/
def Obligations.KeyWaitRepeatsForever : Prop :=
  ∀ (s : State) (x : Reg) (n : Nat), s.Ready → s.pc.toNat ≤ 0xFFE → decode (s.wordAt s.pc.toNat) = .ok (.ldVxK x) →
    (∀ (k : Nat) (h : k < 16), s.key[k] = false) →
    ∃ t, core.run n s = .next t ∧ t = { s with dt := t.dt, st := t.st, result := t.result }

/-- R222, R224, R225: the moves between a register and the timers. -/
def Obligations.TimerMoves : Prop :=
  ∀ (x : Reg) (s : State),
    (WordDecodes (0xF007 + x.val * 256) (.ldVxDt x) ∧
      ∃ t, exec (.ldVxDt x) s = .next t ∧ t.reg x = s.dt ∧ RegsKeptBut s t [x] ∧ t = { s with v := t.v } ∧
        SameBytes s t) ∧
    (WordDecodes (0xF015 + x.val * 256) (.ldDtVx x) ∧
      ∃ t, exec (.ldDtVx x) s = .next t ∧ t.dt = s.reg x ∧ t = { s with dt := t.dt } ∧ SameBytes s t) ∧
    (WordDecodes (0xF018 + x.val * 256) (.ldStVx x) ∧
      ∃ t, exec (.ldStVx x) s = .next t ∧ t.st = s.reg x ∧ t = { s with st := t.st } ∧ SameBytes s t)

/-! ### Rules about every instruction -/

/-- 10_state.md R25, R26: only CALL writes the stack, only CALL and RET move sp, by one, and neither moves it past its ends. -/
def Obligations.OnlyCallAndReturnMoveTheStack : Prop :=
  ∀ (i : Instr) (s t : State), exec i s = .next t →
    ((∀ n, i ≠ .call n) → t.stack = s.stack) ∧
    ((∀ n, i ≠ .call n) → i ≠ .ret → t.sp = s.sp) ∧
    (t.sp = s.sp ∨ t.sp.val = s.sp.val + 1 ∨ t.sp.val + 1 = s.sp.val)

/-- R27, R28, R29, R36: only Fx15 writes DT and only Fx18 writes ST; no instruction writes the keys, the configuration, the
host's queue, the Diagnostics or the last result; only Cxnn draws. -/
def Obligations.OnlyTimerLoadsWriteTheTimers : Prop :=
  ∀ (i : Instr) (s t : State), exec i s = .next t →
    ((∀ x, i ≠ .ldDtVx x) → t.dt = s.dt) ∧ ((∀ x, i ≠ .ldStVx x) → t.st = s.st) ∧
    ((∀ x nn, i ≠ .rnd x nn) → t.draws = s.draws) ∧
    t.key = s.key ∧ t.cfg = s.cfg ∧ t.pending = s.pending ∧ t.diags = s.diags ∧ t.result = s.result

/-- R29: the keys are changed only by SetKeyState and, at reset, by Initialize. -/
def Obligations.OnlyTheHostChangesTheKeys : Prop :=
  ∀ s t : State, step s = .next t → t.key ≠ s.key →
    (∃ rest, s.pending = .initBlock :: rest) ∨ ∃ k pressed rest, s.pending = .setKeyState k pressed :: rest

/-! ### The host's queue and the ends of a run -/

/-- R4, R266 in the model's form (log 1): a step performs the oldest queued transaction and leaves the rest queued; with
nothing queued the host calls Cycle. -/
def Obligations.StepPerformsTheOldestTransaction : Prop :=
  ∀ s : State,
    (∀ (t : Txn) (rest : List Txn), s.pending = t :: rest → step s = perform t { s with pending := rest }) ∧
    (s.pending = [] → step s = perform .cycle s)

/-- 70_reset_and_hazards.md R290: the host's stop leaves the state as the last transaction left it. A run that ends so does
nothing once the queue is empty; of a longer queue it takes exactly the first n of the block's steps, which perform the first n
queued transactions, and leaves the rest queued (log 16). -/
def Obligations.HostStopLeavesTheStateAsItIs : Prop :=
  (∀ (s : State) (n : Nat), s.pending = [] → runUntil .hostStops n s = .next s) ∧
  (∀ (s : State) (n : Nat), runUntil .hostStops n s = core.run (min n s.pending.length) s) ∧
  (∀ (s t : State) (n : Nat), runUntil .hostStops n s = .next t → t.pending = s.pending.drop n)

/-- R290, R243: the set latch ends a run. Any number of further Cycles repeats the record and changes nothing else. -/
def Obligations.SetLatchEndsARun : Prop :=
  ∀ (s : State) (f : FaultRecord) (n : Nat), s.fault = some f →
    s.runEnded .latchSet = true ∧ runUntil .latchSet n s = .next s ∧
    (s.pending = [] → core.run (n + 1) s = .next { s with result := .faulted f })

/-- R290, R111: a `JP` to its own address ends a run. Any number of further Cycles leaves pc there and changes at most the
timers and the recorded result. -/
def Obligations.SelfJumpEndsARun : Prop :=
  ∀ s : State,
    (s.runEnded .selfJump = true ↔ s.fault = none ∧ s.pc.toNat ≤ 0xFFE ∧
      ∃ nnn : Addr, decode (s.wordAt s.pc.toNat) = .ok (.jp nnn) ∧ nnn.toNat = s.pc.toNat) ∧
    (s.runEnded .selfJump = true → ∀ n : Nat, runUntil .selfJump n s = .next s ∧
      (s.pending = [] → ∃ t, core.run n s = .next t ∧ t.runEnded .selfJump = true ∧
        t = { s with dt := t.dt, st := t.st, result := t.result }))

/-- R290: a run of n steps goes through the block's own steps and stops at the first state its end holds at, or after n. -/
def Obligations.RunStopsAtItsFirstEnd : Prop :=
  ∀ (e : RunEnd) (n : Nat) (s t : State), runUntil e n s = .next t →
    ∃ k, k ≤ n ∧ core.run k s = .next t ∧ (k = n ∨ t.runEnded e = true) ∧
      ∀ j, j < k → ∃ u, core.run j s = .next u ∧ u.runEnded e = false
end

