-- ==== Sys2Proof/Laws/Memory.lean ====
section
/-! SUPPORT. The memory's laws: a read after a write, and the canonical form, which every memory operation keeps. -/

namespace Sys2Proof.Machine

variable (c : Config)

/-- A read below every listed address gives what an unlisted address reads as. -/
theorem Memory.read_below (m : Memory) (lo a : Nat) (h : Memory.wfFrom c lo m = true) (ha : a < lo) :
    Memory.read c m a = resetByte c a := by
  induction m generalizing lo with
  | nil => rfl
  | cons p m ih =>
    obtain ⟨b, v⟩ := p
    simp only [Memory.wfFrom, Bool.and_eq_true, decide_eq_true_eq] at h
    have hne : a ≠ b := by omega
    simp only [Memory.read, if_neg hne]
    exact ih (b + 1) h.2 (by omega)

/-- The canonical form from a lower bound holds from every smaller one. -/
theorem Memory.wfFrom_mono (m : Memory) (lo lo' : Nat) (h : Memory.wfFrom c lo m = true) (hl : lo' ≤ lo) :
    Memory.wfFrom c lo' m = true := by
  cases m with
  | nil => rfl
  | cons p m =>
    obtain ⟨b, v⟩ := p
    simp only [Memory.wfFrom, Bool.and_eq_true, decide_eq_true_eq] at h ⊢
    exact ⟨⟨⟨by omega, h.1.1.2⟩, h.1.2⟩, h.2⟩

theorem Memory.read_insert_ne (m : Memory) (a a' : Nat) (v : Byte) (h : a' ≠ a) :
    Memory.read c (Memory.insert c m a v) a' = Memory.read c m a' := by
  induction m with
  | nil =>
    simp only [Memory.insert]
    split <;> simp [Memory.read, h]
  | cons p m ih =>
    obtain ⟨b, w⟩ := p
    simp only [Memory.insert]
    split
    · split <;> simp [Memory.read, h]
    · split
      · next hab =>
        subst hab
        split <;> simp [Memory.read, h]
      · simp [Memory.read, ih]

theorem Memory.read_insert_same (m : Memory) (lo a : Nat) (v : Byte) (h : Memory.wfFrom c lo m = true) :
    Memory.read c (Memory.insert c m a v) a = v := by
  induction m generalizing lo with
  | nil =>
    simp only [Memory.insert]
    split
    · next hv => simp [Memory.read, hv]
    · simp [Memory.read]
  | cons p m ih =>
    obtain ⟨b, w⟩ := p
    simp only [Memory.wfFrom, Bool.and_eq_true, decide_eq_true_eq] at h
    simp only [Memory.insert]
    split
    · next hab =>
      split
      · next hv =>
        have hne : a ≠ b := by omega
        simp only [Memory.read, if_neg hne]
        rw [Memory.read_below c m (b + 1) a h.2 (by omega), hv]
      · simp [Memory.read]
    · split
      · next hab =>
        subst hab
        split
        · next hv => rw [Memory.read_below c m (a + 1) a h.2 (by omega), hv]
        · simp [Memory.read]
      · next hab =>
        simp only [Memory.read, if_neg hab]
        exact ih (b + 1) h.2

theorem Memory.insert_wfFrom (m : Memory) (lo a : Nat) (v : Byte) (h : Memory.wfFrom c lo m = true) (hlo : lo ≤ a)
    (ha : a < 4096) : Memory.wfFrom c lo (Memory.insert c m a v) = true := by
  induction m generalizing lo with
  | nil =>
    simp only [Memory.insert]
    split
    · rfl
    · next hv => simp [Memory.wfFrom, hlo, ha, hv]
  | cons p m ih =>
    obtain ⟨b, w⟩ := p
    have h' := h
    simp only [Memory.wfFrom, Bool.and_eq_true, decide_eq_true_eq] at h
    simp only [Memory.insert]
    split
    · next hab =>
      split
      · exact h'
      · next hv =>
        simp only [Memory.wfFrom, Bool.and_eq_true, decide_eq_true_eq]
        exact ⟨⟨⟨hlo, ha⟩, hv⟩, ⟨⟨⟨by omega, h.1.1.2⟩, h.1.2⟩, h.2⟩⟩
    · split
      · next hab =>
        subst hab
        split
        · exact Memory.wfFrom_mono c m (a + 1) lo h.2 (by omega)
        · next hv =>
          simp only [Memory.wfFrom, Bool.and_eq_true, decide_eq_true_eq]
          exact ⟨⟨⟨hlo, ha⟩, hv⟩, h.2⟩
      · next hlt hab =>
        simp only [Memory.wfFrom, Bool.and_eq_true, decide_eq_true_eq]
        exact ⟨h.1, ih (b + 1) h.2 (by omega)⟩

/-- A write keeps the canonical form. -/
theorem Memory.write_wf (m : Memory) (a : Nat) (v : Byte) (h : Memory.wf c m = true) :
    Memory.wf c (Memory.write c m a v) = true := by
  unfold Memory.write
  split
  · next ha => exact Memory.insert_wfFrom c m 0 a v h (Nat.zero_le a) ha
  · exact h

/-- A read after a write to the same place gives the value written. -/
theorem Memory.read_write_same (m : Memory) (a : Nat) (v : Byte) (h : Memory.wf c m = true) (ha : a < 4096) :
    Memory.read c (Memory.write c m a v) a = v := by
  rw [Memory.write, if_pos ha]
  exact Memory.read_insert_same c m 0 a v h

/-- A write leaves every other place alone. -/
theorem Memory.read_write_ne (m : Memory) (a a' : Nat) (v : Byte) (h : a' ≠ a) :
    Memory.read c (Memory.write c m a v) a' = Memory.read c m a' := by
  unfold Memory.write
  split
  · exact Memory.read_insert_ne c m a a' v h
  · rfl

/-- Nothing listed is canonical: the memory of the reset state. -/
theorem Memory.wf_nil : Memory.wf c [] = true := rfl

/-- With nothing listed, every address reads as reset leaves it. -/
theorem Memory.read_nil (a : Nat) : Memory.read c [] a = resetByte c a := rfl

end Sys2Proof.Machine
end

