-- ==== Sys2Proof/Laws/State.lean ====
section
/-! SUPPORT. What each update of the state leaves in each field: one lemma per field per update, so that no proof unfolds a
record update. -/

namespace Sys2Proof.Machine

section
variable (s : State)

/-! ### `setReg` -/

@[simp] theorem State.setReg_v (x : Reg) (b : Byte) : (s.setReg x b).v = s.v.set x.val b x.isLt := rfl
@[simp] theorem State.setReg_idx (x : Reg) (b : Byte) : (s.setReg x b).idx = s.idx := rfl
@[simp] theorem State.setReg_pc (x : Reg) (b : Byte) : (s.setReg x b).pc = s.pc := rfl
@[simp] theorem State.setReg_stack (x : Reg) (b : Byte) : (s.setReg x b).stack = s.stack := rfl
@[simp] theorem State.setReg_sp (x : Reg) (b : Byte) : (s.setReg x b).sp = s.sp := rfl
@[simp] theorem State.setReg_dt (x : Reg) (b : Byte) : (s.setReg x b).dt = s.dt := rfl
@[simp] theorem State.setReg_st (x : Reg) (b : Byte) : (s.setReg x b).st = s.st := rfl
@[simp] theorem State.setReg_key (x : Reg) (b : Byte) : (s.setReg x b).key = s.key := rfl
@[simp] theorem State.setReg_video (x : Reg) (b : Byte) : (s.setReg x b).video = s.video := rfl
@[simp] theorem State.setReg_mem (x : Reg) (b : Byte) : (s.setReg x b).mem = s.mem := rfl
@[simp] theorem State.setReg_fault (x : Reg) (b : Byte) : (s.setReg x b).fault = s.fault := rfl
@[simp] theorem State.setReg_cfg (x : Reg) (b : Byte) : (s.setReg x b).cfg = s.cfg := rfl
@[simp] theorem State.setReg_draws (x : Reg) (b : Byte) : (s.setReg x b).draws = s.draws := rfl
@[simp] theorem State.setReg_pending (x : Reg) (b : Byte) : (s.setReg x b).pending = s.pending := rfl
@[simp] theorem State.setReg_diags (x : Reg) (b : Byte) : (s.setReg x b).diags = s.diags := rfl
@[simp] theorem State.setReg_result (x : Reg) (b : Byte) : (s.setReg x b).result = s.result := rfl

/-! ### `setFlag` -/

@[simp] theorem State.setFlag_v (b : Bool) : (s.setFlag b).v = s.v.set (15 : Reg).val (flagByte b) (15 : Reg).isLt := rfl
@[simp] theorem State.setFlag_idx (b : Bool) : (s.setFlag b).idx = s.idx := rfl
@[simp] theorem State.setFlag_pc (b : Bool) : (s.setFlag b).pc = s.pc := rfl
@[simp] theorem State.setFlag_stack (b : Bool) : (s.setFlag b).stack = s.stack := rfl
@[simp] theorem State.setFlag_sp (b : Bool) : (s.setFlag b).sp = s.sp := rfl
@[simp] theorem State.setFlag_dt (b : Bool) : (s.setFlag b).dt = s.dt := rfl
@[simp] theorem State.setFlag_st (b : Bool) : (s.setFlag b).st = s.st := rfl
@[simp] theorem State.setFlag_key (b : Bool) : (s.setFlag b).key = s.key := rfl
@[simp] theorem State.setFlag_video (b : Bool) : (s.setFlag b).video = s.video := rfl
@[simp] theorem State.setFlag_mem (b : Bool) : (s.setFlag b).mem = s.mem := rfl
@[simp] theorem State.setFlag_fault (b : Bool) : (s.setFlag b).fault = s.fault := rfl
@[simp] theorem State.setFlag_cfg (b : Bool) : (s.setFlag b).cfg = s.cfg := rfl
@[simp] theorem State.setFlag_draws (b : Bool) : (s.setFlag b).draws = s.draws := rfl
@[simp] theorem State.setFlag_pending (b : Bool) : (s.setFlag b).pending = s.pending := rfl
@[simp] theorem State.setFlag_diags (b : Bool) : (s.setFlag b).diags = s.diags := rfl
@[simp] theorem State.setFlag_result (b : Bool) : (s.setFlag b).result = s.result := rfl

/-! ### `advance` -/

@[simp] theorem State.advance_v : (s.advance).v = s.v := rfl
@[simp] theorem State.advance_idx : (s.advance).idx = s.idx := rfl
@[simp] theorem State.advance_pc : (s.advance).pc = s.pc + 2 := rfl
@[simp] theorem State.advance_stack : (s.advance).stack = s.stack := rfl
@[simp] theorem State.advance_sp : (s.advance).sp = s.sp := rfl
@[simp] theorem State.advance_dt : (s.advance).dt = s.dt := rfl
@[simp] theorem State.advance_st : (s.advance).st = s.st := rfl
@[simp] theorem State.advance_key : (s.advance).key = s.key := rfl
@[simp] theorem State.advance_video : (s.advance).video = s.video := rfl
@[simp] theorem State.advance_mem : (s.advance).mem = s.mem := rfl
@[simp] theorem State.advance_fault : (s.advance).fault = s.fault := rfl
@[simp] theorem State.advance_cfg : (s.advance).cfg = s.cfg := rfl
@[simp] theorem State.advance_draws : (s.advance).draws = s.draws := rfl
@[simp] theorem State.advance_pending : (s.advance).pending = s.pending := rfl
@[simp] theorem State.advance_diags : (s.advance).diags = s.diags := rfl
@[simp] theorem State.advance_result : (s.advance).result = s.result := rfl

/-! ### `setByte` -/

@[simp] theorem State.setByte_v (a : Nat) (b : Byte) : (s.setByte a b).v = s.v := rfl
@[simp] theorem State.setByte_idx (a : Nat) (b : Byte) : (s.setByte a b).idx = s.idx := rfl
@[simp] theorem State.setByte_pc (a : Nat) (b : Byte) : (s.setByte a b).pc = s.pc := rfl
@[simp] theorem State.setByte_stack (a : Nat) (b : Byte) : (s.setByte a b).stack = s.stack := rfl
@[simp] theorem State.setByte_sp (a : Nat) (b : Byte) : (s.setByte a b).sp = s.sp := rfl
@[simp] theorem State.setByte_dt (a : Nat) (b : Byte) : (s.setByte a b).dt = s.dt := rfl
@[simp] theorem State.setByte_st (a : Nat) (b : Byte) : (s.setByte a b).st = s.st := rfl
@[simp] theorem State.setByte_key (a : Nat) (b : Byte) : (s.setByte a b).key = s.key := rfl
@[simp] theorem State.setByte_video (a : Nat) (b : Byte) : (s.setByte a b).video = s.video := rfl
@[simp] theorem State.setByte_mem (a : Nat) (b : Byte) : (s.setByte a b).mem = Memory.write s.cfg s.mem a b := rfl
@[simp] theorem State.setByte_fault (a : Nat) (b : Byte) : (s.setByte a b).fault = s.fault := rfl
@[simp] theorem State.setByte_cfg (a : Nat) (b : Byte) : (s.setByte a b).cfg = s.cfg := rfl
@[simp] theorem State.setByte_draws (a : Nat) (b : Byte) : (s.setByte a b).draws = s.draws := rfl
@[simp] theorem State.setByte_pending (a : Nat) (b : Byte) : (s.setByte a b).pending = s.pending := rfl
@[simp] theorem State.setByte_diags (a : Nat) (b : Byte) : (s.setByte a b).diags = s.diags := rfl
@[simp] theorem State.setByte_result (a : Nat) (b : Byte) : (s.setByte a b).result = s.result := rfl

/-! ### `takeFault` -/

@[simp] theorem State.takeFault_v (r : FaultRecord) : (s.takeFault r).v = s.v := rfl
@[simp] theorem State.takeFault_idx (r : FaultRecord) : (s.takeFault r).idx = s.idx := rfl
@[simp] theorem State.takeFault_pc (r : FaultRecord) : (s.takeFault r).pc = r.addr := rfl
@[simp] theorem State.takeFault_stack (r : FaultRecord) : (s.takeFault r).stack = s.stack := rfl
@[simp] theorem State.takeFault_sp (r : FaultRecord) : (s.takeFault r).sp = s.sp := rfl
@[simp] theorem State.takeFault_dt (r : FaultRecord) : (s.takeFault r).dt = s.dt := rfl
@[simp] theorem State.takeFault_st (r : FaultRecord) : (s.takeFault r).st = s.st := rfl
@[simp] theorem State.takeFault_key (r : FaultRecord) : (s.takeFault r).key = s.key := rfl
@[simp] theorem State.takeFault_video (r : FaultRecord) : (s.takeFault r).video = s.video := rfl
@[simp] theorem State.takeFault_mem (r : FaultRecord) : (s.takeFault r).mem = s.mem := rfl
@[simp] theorem State.takeFault_fault (r : FaultRecord) : (s.takeFault r).fault = some r := rfl
@[simp] theorem State.takeFault_cfg (r : FaultRecord) : (s.takeFault r).cfg = s.cfg := rfl
@[simp] theorem State.takeFault_draws (r : FaultRecord) : (s.takeFault r).draws = s.draws := rfl
@[simp] theorem State.takeFault_pending (r : FaultRecord) : (s.takeFault r).pending = s.pending := rfl
@[simp] theorem State.takeFault_diags (r : FaultRecord) : (s.takeFault r).diags = s.diags := rfl
@[simp] theorem State.takeFault_result (r : FaultRecord) : (s.takeFault r).result = s.result := rfl

/-! ### `raise` -/

@[simp] theorem State.raise_v (code : FaultCode) (info : Nat) : (s.raise code info).v = s.v := rfl
@[simp] theorem State.raise_idx (code : FaultCode) (info : Nat) : (s.raise code info).idx = s.idx := rfl
@[simp] theorem State.raise_pc (code : FaultCode) (info : Nat) : (s.raise code info).pc = s.pc - 2 := rfl
@[simp] theorem State.raise_stack (code : FaultCode) (info : Nat) : (s.raise code info).stack = s.stack := rfl
@[simp] theorem State.raise_sp (code : FaultCode) (info : Nat) : (s.raise code info).sp = s.sp := rfl
@[simp] theorem State.raise_dt (code : FaultCode) (info : Nat) : (s.raise code info).dt = s.dt := rfl
@[simp] theorem State.raise_st (code : FaultCode) (info : Nat) : (s.raise code info).st = s.st := rfl
@[simp] theorem State.raise_key (code : FaultCode) (info : Nat) : (s.raise code info).key = s.key := rfl
@[simp] theorem State.raise_video (code : FaultCode) (info : Nat) : (s.raise code info).video = s.video := rfl
@[simp] theorem State.raise_mem (code : FaultCode) (info : Nat) : (s.raise code info).mem = s.mem := rfl
@[simp] theorem State.raise_fault (code : FaultCode) (info : Nat) : (s.raise code info).fault = 
    some { code := code, addr := s.pc - 2, word := s.wordAt (s.pc - 2).toNat, info := BitVec.ofNat 16 info } := rfl
@[simp] theorem State.raise_cfg (code : FaultCode) (info : Nat) : (s.raise code info).cfg = s.cfg := rfl
@[simp] theorem State.raise_draws (code : FaultCode) (info : Nat) : (s.raise code info).draws = s.draws := rfl
@[simp] theorem State.raise_pending (code : FaultCode) (info : Nat) : (s.raise code info).pending = s.pending := rfl
@[simp] theorem State.raise_diags (code : FaultCode) (info : Nat) : (s.raise code info).diags = s.diags := rfl
@[simp] theorem State.raise_result (code : FaultCode) (info : Nat) : (s.raise code info).result = s.result := rfl

/-! ### `tick` -/

@[simp] theorem State.tick_v : (s.tick).v = s.v := rfl
@[simp] theorem State.tick_idx : (s.tick).idx = s.idx := rfl
@[simp] theorem State.tick_pc : (s.tick).pc = s.pc := rfl
@[simp] theorem State.tick_stack : (s.tick).stack = s.stack := rfl
@[simp] theorem State.tick_sp : (s.tick).sp = s.sp := rfl
@[simp] theorem State.tick_dt : (s.tick).dt = countDown s.dt := rfl
@[simp] theorem State.tick_st : (s.tick).st = countDown s.st := rfl
@[simp] theorem State.tick_key : (s.tick).key = s.key := rfl
@[simp] theorem State.tick_video : (s.tick).video = s.video := rfl
@[simp] theorem State.tick_mem : (s.tick).mem = s.mem := rfl
@[simp] theorem State.tick_fault : (s.tick).fault = s.fault := rfl
@[simp] theorem State.tick_cfg : (s.tick).cfg = s.cfg := rfl
@[simp] theorem State.tick_draws : (s.tick).draws = s.draws := rfl
@[simp] theorem State.tick_pending : (s.tick).pending = s.pending := rfl
@[simp] theorem State.tick_diags : (s.tick).diags = s.diags := rfl
@[simp] theorem State.tick_result : (s.tick).result = s.result := rfl

/-! ### `setRegsThrough` -/

@[simp] theorem State.setRegsThrough_idx (x : Reg) (base : Nat) : (s.setRegsThrough x base).idx = s.idx := rfl
@[simp] theorem State.setRegsThrough_pc (x : Reg) (base : Nat) : (s.setRegsThrough x base).pc = s.pc := rfl
@[simp] theorem State.setRegsThrough_stack (x : Reg) (base : Nat) : (s.setRegsThrough x base).stack = s.stack := rfl
@[simp] theorem State.setRegsThrough_sp (x : Reg) (base : Nat) : (s.setRegsThrough x base).sp = s.sp := rfl
@[simp] theorem State.setRegsThrough_dt (x : Reg) (base : Nat) : (s.setRegsThrough x base).dt = s.dt := rfl
@[simp] theorem State.setRegsThrough_st (x : Reg) (base : Nat) : (s.setRegsThrough x base).st = s.st := rfl
@[simp] theorem State.setRegsThrough_key (x : Reg) (base : Nat) : (s.setRegsThrough x base).key = s.key := rfl
@[simp] theorem State.setRegsThrough_video (x : Reg) (base : Nat) : (s.setRegsThrough x base).video = s.video := rfl
@[simp] theorem State.setRegsThrough_mem (x : Reg) (base : Nat) : (s.setRegsThrough x base).mem = s.mem := rfl
@[simp] theorem State.setRegsThrough_fault (x : Reg) (base : Nat) : (s.setRegsThrough x base).fault = s.fault := rfl
@[simp] theorem State.setRegsThrough_cfg (x : Reg) (base : Nat) : (s.setRegsThrough x base).cfg = s.cfg := rfl
@[simp] theorem State.setRegsThrough_draws (x : Reg) (base : Nat) : (s.setRegsThrough x base).draws = s.draws := rfl
@[simp] theorem State.setRegsThrough_pending (x : Reg) (base : Nat) : (s.setRegsThrough x base).pending = s.pending := rfl
@[simp] theorem State.setRegsThrough_diags (x : Reg) (base : Nat) : (s.setRegsThrough x base).diags = s.diags := rfl
@[simp] theorem State.setRegsThrough_result (x : Reg) (base : Nat) : (s.setRegsThrough x base).result = s.result := rfl

/-! ### `drawSprite` -/

@[simp] theorem State.drawSprite_idx (x y : Reg) (n : Nat) : (s.drawSprite x y n).idx = s.idx := rfl
@[simp] theorem State.drawSprite_pc (x y : Reg) (n : Nat) : (s.drawSprite x y n).pc = s.pc := rfl
@[simp] theorem State.drawSprite_stack (x y : Reg) (n : Nat) : (s.drawSprite x y n).stack = s.stack := rfl
@[simp] theorem State.drawSprite_sp (x y : Reg) (n : Nat) : (s.drawSprite x y n).sp = s.sp := rfl
@[simp] theorem State.drawSprite_dt (x y : Reg) (n : Nat) : (s.drawSprite x y n).dt = s.dt := rfl
@[simp] theorem State.drawSprite_st (x y : Reg) (n : Nat) : (s.drawSprite x y n).st = s.st := rfl
@[simp] theorem State.drawSprite_key (x y : Reg) (n : Nat) : (s.drawSprite x y n).key = s.key := rfl
@[simp] theorem State.drawSprite_mem (x y : Reg) (n : Nat) : (s.drawSprite x y n).mem = s.mem := rfl
@[simp] theorem State.drawSprite_fault (x y : Reg) (n : Nat) : (s.drawSprite x y n).fault = s.fault := rfl
@[simp] theorem State.drawSprite_cfg (x y : Reg) (n : Nat) : (s.drawSprite x y n).cfg = s.cfg := rfl
@[simp] theorem State.drawSprite_draws (x y : Reg) (n : Nat) : (s.drawSprite x y n).draws = s.draws := rfl
@[simp] theorem State.drawSprite_pending (x y : Reg) (n : Nat) : (s.drawSprite x y n).pending = s.pending := rfl
@[simp] theorem State.drawSprite_diags (x y : Reg) (n : Nat) : (s.drawSprite x y n).diags = s.diags := rfl
@[simp] theorem State.drawSprite_result (x y : Reg) (n : Nat) : (s.drawSprite x y n).result = s.result := rfl

/-! ### `refault` -/

@[simp] theorem State.refault_v (f : FaultRecord) : (s.refault f).v = s.v := rfl
@[simp] theorem State.refault_idx (f : FaultRecord) : (s.refault f).idx = s.idx := rfl
@[simp] theorem State.refault_pc (f : FaultRecord) : (s.refault f).pc = s.pc := rfl
@[simp] theorem State.refault_stack (f : FaultRecord) : (s.refault f).stack = s.stack := rfl
@[simp] theorem State.refault_sp (f : FaultRecord) : (s.refault f).sp = s.sp := rfl
@[simp] theorem State.refault_dt (f : FaultRecord) : (s.refault f).dt = s.dt := rfl
@[simp] theorem State.refault_st (f : FaultRecord) : (s.refault f).st = s.st := rfl
@[simp] theorem State.refault_key (f : FaultRecord) : (s.refault f).key = s.key := rfl
@[simp] theorem State.refault_video (f : FaultRecord) : (s.refault f).video = s.video := rfl
@[simp] theorem State.refault_mem (f : FaultRecord) : (s.refault f).mem = s.mem := rfl
@[simp] theorem State.refault_fault (f : FaultRecord) : (s.refault f).fault = s.fault := rfl
@[simp] theorem State.refault_cfg (f : FaultRecord) : (s.refault f).cfg = s.cfg := rfl
@[simp] theorem State.refault_draws (f : FaultRecord) : (s.refault f).draws = s.draws := rfl
@[simp] theorem State.refault_pending (f : FaultRecord) : (s.refault f).pending = s.pending := rfl
@[simp] theorem State.refault_diags (f : FaultRecord) : (s.refault f).diags = s.diags := rfl
@[simp] theorem State.refault_result (f : FaultRecord) : (s.refault f).result = .faulted f := rfl

/-! ### Updates that branch -/

@[simp] theorem State.skipIf_v (cond : Bool) : (s.skipIf cond).v = s.v := by
  cases cond <;> rfl
@[simp] theorem State.skipIf_idx (cond : Bool) : (s.skipIf cond).idx = s.idx := by
  cases cond <;> rfl
@[simp] theorem State.skipIf_stack (cond : Bool) : (s.skipIf cond).stack = s.stack := by
  cases cond <;> rfl
@[simp] theorem State.skipIf_sp (cond : Bool) : (s.skipIf cond).sp = s.sp := by
  cases cond <;> rfl
@[simp] theorem State.skipIf_dt (cond : Bool) : (s.skipIf cond).dt = s.dt := by
  cases cond <;> rfl
@[simp] theorem State.skipIf_st (cond : Bool) : (s.skipIf cond).st = s.st := by
  cases cond <;> rfl
@[simp] theorem State.skipIf_key (cond : Bool) : (s.skipIf cond).key = s.key := by
  cases cond <;> rfl
@[simp] theorem State.skipIf_video (cond : Bool) : (s.skipIf cond).video = s.video := by
  cases cond <;> rfl
@[simp] theorem State.skipIf_mem (cond : Bool) : (s.skipIf cond).mem = s.mem := by
  cases cond <;> rfl
@[simp] theorem State.skipIf_fault (cond : Bool) : (s.skipIf cond).fault = s.fault := by
  cases cond <;> rfl
@[simp] theorem State.skipIf_cfg (cond : Bool) : (s.skipIf cond).cfg = s.cfg := by
  cases cond <;> rfl
@[simp] theorem State.skipIf_draws (cond : Bool) : (s.skipIf cond).draws = s.draws := by
  cases cond <;> rfl
@[simp] theorem State.skipIf_pending (cond : Bool) : (s.skipIf cond).pending = s.pending := by
  cases cond <;> rfl
@[simp] theorem State.skipIf_diags (cond : Bool) : (s.skipIf cond).diags = s.diags := by
  cases cond <;> rfl
@[simp] theorem State.skipIf_result (cond : Bool) : (s.skipIf cond).result = s.result := by
  cases cond <;> rfl

@[simp] theorem State.coupledTick_v : s.coupledTick.v = s.v := by
  unfold State.coupledTick; split <;> rfl
@[simp] theorem State.coupledTick_idx : s.coupledTick.idx = s.idx := by
  unfold State.coupledTick; split <;> rfl
@[simp] theorem State.coupledTick_pc : s.coupledTick.pc = s.pc := by
  unfold State.coupledTick; split <;> rfl
@[simp] theorem State.coupledTick_stack : s.coupledTick.stack = s.stack := by
  unfold State.coupledTick; split <;> rfl
@[simp] theorem State.coupledTick_sp : s.coupledTick.sp = s.sp := by
  unfold State.coupledTick; split <;> rfl
@[simp] theorem State.coupledTick_key : s.coupledTick.key = s.key := by
  unfold State.coupledTick; split <;> rfl
@[simp] theorem State.coupledTick_video : s.coupledTick.video = s.video := by
  unfold State.coupledTick; split <;> rfl
@[simp] theorem State.coupledTick_mem : s.coupledTick.mem = s.mem := by
  unfold State.coupledTick; split <;> rfl
@[simp] theorem State.coupledTick_fault : s.coupledTick.fault = s.fault := by
  unfold State.coupledTick; split <;> rfl
@[simp] theorem State.coupledTick_cfg : s.coupledTick.cfg = s.cfg := by
  unfold State.coupledTick; split <;> rfl
@[simp] theorem State.coupledTick_draws : s.coupledTick.draws = s.draws := by
  unfold State.coupledTick; split <;> rfl
@[simp] theorem State.coupledTick_pending : s.coupledTick.pending = s.pending := by
  unfold State.coupledTick; split <;> rfl
@[simp] theorem State.coupledTick_diags : s.coupledTick.diags = s.diags := by
  unfold State.coupledTick; split <;> rfl
@[simp] theorem State.coupledTick_result : s.coupledTick.result = s.result := by
  unfold State.coupledTick; split <;> rfl

theorem State.skipIf_pc (cond : Bool) : (s.skipIf cond).pc = if cond then s.pc + 2 else s.pc := by
  cases cond <;> rfl

/-! ### Registers read back -/

@[simp] theorem State.reg_setReg_same (x : Reg) (b : Byte) : (s.setReg x b).reg x = b := by
  simp [State.reg]

theorem State.reg_setReg_ne (x y : Reg) (b : Byte) (h : y ≠ x) : (s.setReg x b).reg y = s.reg y := by
  simp only [State.reg, State.setReg_v]
  exact Vector.getElem_set_ne x.isLt y.isLt (fun e => h (Fin.ext e.symm))

/-- A register read after a register write. -/
theorem State.reg_setReg (x y : Reg) (b : Byte) : (s.setReg x b).reg y = if y = x then b else s.reg y := by
  split
  · next h => subst h; simp
  · next h => exact s.reg_setReg_ne x y b h

/-- A register read after a flag write. -/
theorem State.reg_setFlag (y : Reg) (b : Bool) : (s.setFlag b).reg y = if y = 15 then flagByte b else s.reg y :=
  s.reg_setReg 15 y (flagByte b)

/-- A register read after a block load: V0..Vx are the bytes, the others are as before. -/
theorem State.reg_setRegsThrough (x y : Reg) (base : Nat) :
    (s.setRegsThrough x base).reg y = if y.val ≤ x.val then s.byteAt (base + y.val) else s.reg y := by
  simp [State.reg, State.setRegsThrough]

/-- The registers after a sprite: VF alone changes. -/
theorem State.reg_drawSprite_ne (x y r : Reg) (n : Nat) (h : r ≠ 15) : (s.drawSprite x y n).reg r = s.reg r := by
  unfold State.drawSprite
  rw [State.reg_setFlag, if_neg h]
  rfl

@[simp] theorem State.reg_advance (y : Reg) : (s.advance).reg y = s.reg y := rfl
@[simp] theorem State.reg_takeFault (r : FaultRecord) (y : Reg) : (s.takeFault r).reg y = s.reg y := rfl
@[simp] theorem State.reg_raise (code : FaultCode) (info : Nat) (y : Reg) : (s.raise code info).reg y = s.reg y := rfl
@[simp] theorem State.reg_tick (y : Reg) : (s.tick).reg y = s.reg y := rfl
@[simp] theorem State.reg_skipIf (cond : Bool) (y : Reg) : (s.skipIf cond).reg y = s.reg y := by
  cases cond <;> rfl

/-! ### Bytes of memory after an update that stores nothing -/

@[simp] theorem State.byteAt_setReg (x : Reg) (b : Byte) (a : Nat) : (s.setReg x b).byteAt a = s.byteAt a := rfl
@[simp] theorem State.byteAt_setFlag (b : Bool) (a : Nat) : (s.setFlag b).byteAt a = s.byteAt a := rfl
@[simp] theorem State.byteAt_advance (a : Nat) : (s.advance).byteAt a = s.byteAt a := rfl
@[simp] theorem State.byteAt_takeFault (r : FaultRecord) (a : Nat) : (s.takeFault r).byteAt a = s.byteAt a := rfl
@[simp] theorem State.byteAt_raise (code : FaultCode) (info : Nat) (a : Nat) : (s.raise code info).byteAt a = s.byteAt a := rfl
@[simp] theorem State.byteAt_tick (a : Nat) : (s.tick).byteAt a = s.byteAt a := rfl
@[simp] theorem State.byteAt_setRegsThrough (x : Reg) (base : Nat) (a : Nat) : (s.setRegsThrough x base).byteAt a = s.byteAt a := rfl
@[simp] theorem State.byteAt_drawSprite (x y : Reg) (n : Nat) (a : Nat) : (s.drawSprite x y n).byteAt a = s.byteAt a := rfl
@[simp] theorem State.byteAt_skipIf (cond : Bool) (a : Nat) : (s.skipIf cond).byteAt a = s.byteAt a := by
  cases cond <;> rfl
@[simp] theorem State.byteAt_coupledTick (a : Nat) : s.coupledTick.byteAt a = s.byteAt a := by
  unfold State.coupledTick; split <;> rfl

end

end Sys2Proof.Machine
end

