-- ==== Sys2Proof/Laws/Ops.lean ====
section
/-! SUPPORT. For each shared operation, one lemma that says what it can do; later proofs cite it and do not unfold the
operation. -/

namespace Sys2Proof.Machine

variable (s : State)

/-! ### The checks before an access -/

theorem readCheck_eq_none (a : Nat) : readCheck a = none ↔ a < 4096 := by
  unfold readCheck
  split <;> simp <;> omega

theorem readCheck_eq_some (a : Nat) (code : FaultCode) :
    readCheck a = some code ↔ 4096 ≤ a ∧ code = .addressOutOfRange := by
  unfold readCheck
  split
  · simp; omega
  · simp only [Option.some.injEq]
    constructor
    · rintro rfl; exact ⟨by omega, rfl⟩
    · rintro ⟨-, rfl⟩; rfl

theorem writeCheck_eq_none (c : Config) (a : Nat) :
    writeCheck c a = none ↔ a < 4096 ∧ (c.protectLowMemory = true → 0x200 ≤ a) := by
  unfold writeCheck
  split
  · simp; omega
  · split
    · next h => simp at h; simp [h.1]; omega
    · next h => simp at h; simp; exact ⟨by omega, h⟩

theorem writeCheck_eq_some (c : Config) (a : Nat) (code : FaultCode) :
    writeCheck c a = some code ↔ (4096 ≤ a ∧ code = .addressOutOfRange) ∨
      (a < 0x200 ∧ c.protectLowMemory = true ∧ code = .protectedWrite) := by
  unfold writeCheck
  split
  · simp only [Option.some.injEq]
    constructor
    · rintro rfl; exact .inl ⟨by omega, rfl⟩
    · rintro (⟨-, rfl⟩ | ⟨h, -, -⟩)
      · rfl
      · omega
  · split
    · next hp =>
      simp only [Bool.and_eq_true, decide_eq_true_eq] at hp
      simp only [Option.some.injEq]
      constructor
      · rintro rfl; exact .inr ⟨hp.2, hp.1, rfl⟩
      · rintro (⟨h, -⟩ | ⟨-, -, rfl⟩)
        · omega
        · rfl
    · next hp =>
      simp only [Bool.and_eq_true, decide_eq_true_eq, not_and] at hp
      simp only [reduceCtorEq, false_iff, not_or, not_and]
      exact ⟨fun h => by omega, fun h1 h2 => absurd h1 (hp h2)⟩

/-- No address fails exactly when the check passes at every one of them. -/
theorem firstFailing_eq_none (check : Nat → Option FaultCode) (base count : Nat) :
    firstFailing check base count = none ↔ ∀ k, k < count → check (base + k) = none := by
  induction count generalizing base with
  | zero => simp [firstFailing]
  | succ n ih =>
    rw [firstFailing]
    cases hc : check base with
    | some code =>
      simp only [reduceCtorEq, false_iff]
      intro h
      simpa [hc] using h 0 (by omega)
    | none =>
      simp only [ih]
      constructor
      · intro h k hk
        cases k with
        | zero => simpa using hc
        | succ k => rw [show base + (k + 1) = base + 1 + k by omega]; exact h k (by omega)
      · intro h k hk
        rw [show base + 1 + k = base + (k + 1) by omega]
        exact h (k + 1) (by omega)

/-- The failing address reported is the lowest one (20_memory.md R56). -/
theorem firstFailing_eq_some (check : Nat → Option FaultCode) (base count : Nat) (code : FaultCode) (a : Nat) :
    firstFailing check base count = some (code, a) ↔
      ∃ k, k < count ∧ a = base + k ∧ check a = some code ∧ ∀ j, j < k → check (base + j) = none := by
  induction count generalizing base with
  | zero => simp [firstFailing]
  | succ n ih =>
    rw [firstFailing]
    cases hc : check base with
    | some code' =>
      simp only [Option.some.injEq, Prod.mk.injEq]
      constructor
      · rintro ⟨rfl, rfl⟩
        exact ⟨0, by omega, by omega, hc, fun j hj => by omega⟩
      · rintro ⟨k, -, rfl, h2, h3⟩
        cases k with
        | zero =>
          rw [Nat.add_zero, hc] at h2
          exact ⟨Option.some.inj h2, rfl⟩
        | succ k =>
          have := h3 0 (by omega)
          simp [hc] at this
    | none =>
      simp only [ih]
      constructor
      · rintro ⟨k, h1, h2, h3, h4⟩
        refine ⟨k + 1, by omega, by omega, h3, fun j hj => ?_⟩
        cases j with
        | zero => simpa using hc
        | succ j => rw [show base + (j + 1) = base + 1 + j by omega]; exact h4 j (by omega)
      · rintro ⟨k, h1, h2, h3, h4⟩
        cases k with
        | zero => subst h2; simp [hc] at h3
        | succ k =>
          refine ⟨k, by omega, by omega, h3, fun j hj => ?_⟩
          rw [show base + 1 + j = base + (j + 1) by omega]
          exact h4 (j + 1) (by omega)

/-- A guarded instruction answers a next state: the fault at the lowest failing address, or its own effect. -/
theorem State.unlessFailing_cases (failing : Option (FaultCode × Nat)) (t : State) :
    (failing = none ∧ s.unlessFailing failing t = .next t) ∨
    ∃ code a, failing = some (code, a) ∧ s.unlessFailing failing t = .next (s.raise code a) := by
  cases failing with
  | none => exact .inl ⟨rfl, rfl⟩
  | some p => exact .inr ⟨p.1, p.2, rfl, rfl⟩

/-! ### Stores -/

@[simp] theorem State.storeBytes_v (base : Nat) (bs : List Byte) : (s.storeBytes base bs).v = s.v := by
  induction bs generalizing base with
  | nil => rfl
  | cons b bs ih => exact ih (base + 1)

@[simp] theorem State.storeBytes_idx (base : Nat) (bs : List Byte) : (s.storeBytes base bs).idx = s.idx := by
  induction bs generalizing base with
  | nil => rfl
  | cons b bs ih => exact ih (base + 1)

@[simp] theorem State.storeBytes_pc (base : Nat) (bs : List Byte) : (s.storeBytes base bs).pc = s.pc := by
  induction bs generalizing base with
  | nil => rfl
  | cons b bs ih => exact ih (base + 1)

@[simp] theorem State.storeBytes_stack (base : Nat) (bs : List Byte) : (s.storeBytes base bs).stack = s.stack := by
  induction bs generalizing base with
  | nil => rfl
  | cons b bs ih => exact ih (base + 1)

@[simp] theorem State.storeBytes_sp (base : Nat) (bs : List Byte) : (s.storeBytes base bs).sp = s.sp := by
  induction bs generalizing base with
  | nil => rfl
  | cons b bs ih => exact ih (base + 1)

@[simp] theorem State.storeBytes_dt (base : Nat) (bs : List Byte) : (s.storeBytes base bs).dt = s.dt := by
  induction bs generalizing base with
  | nil => rfl
  | cons b bs ih => exact ih (base + 1)

@[simp] theorem State.storeBytes_st (base : Nat) (bs : List Byte) : (s.storeBytes base bs).st = s.st := by
  induction bs generalizing base with
  | nil => rfl
  | cons b bs ih => exact ih (base + 1)

@[simp] theorem State.storeBytes_key (base : Nat) (bs : List Byte) : (s.storeBytes base bs).key = s.key := by
  induction bs generalizing base with
  | nil => rfl
  | cons b bs ih => exact ih (base + 1)

@[simp] theorem State.storeBytes_video (base : Nat) (bs : List Byte) : (s.storeBytes base bs).video = s.video := by
  induction bs generalizing base with
  | nil => rfl
  | cons b bs ih => exact ih (base + 1)

@[simp] theorem State.storeBytes_fault (base : Nat) (bs : List Byte) : (s.storeBytes base bs).fault = s.fault := by
  induction bs generalizing base with
  | nil => rfl
  | cons b bs ih => exact ih (base + 1)

@[simp] theorem State.storeBytes_cfg (base : Nat) (bs : List Byte) : (s.storeBytes base bs).cfg = s.cfg := by
  induction bs generalizing base with
  | nil => rfl
  | cons b bs ih => exact ih (base + 1)

@[simp] theorem State.storeBytes_draws (base : Nat) (bs : List Byte) : (s.storeBytes base bs).draws = s.draws := by
  induction bs generalizing base with
  | nil => rfl
  | cons b bs ih => exact ih (base + 1)

@[simp] theorem State.storeBytes_pending (base : Nat) (bs : List Byte) : (s.storeBytes base bs).pending = s.pending := by
  induction bs generalizing base with
  | nil => rfl
  | cons b bs ih => exact ih (base + 1)

@[simp] theorem State.storeBytes_diags (base : Nat) (bs : List Byte) : (s.storeBytes base bs).diags = s.diags := by
  induction bs generalizing base with
  | nil => rfl
  | cons b bs ih => exact ih (base + 1)

@[simp] theorem State.storeBytes_result (base : Nat) (bs : List Byte) : (s.storeBytes base bs).result = s.result := by
  induction bs generalizing base with
  | nil => rfl
  | cons b bs ih => exact ih (base + 1)

@[simp] theorem State.reg_storeBytes (base : Nat) (bs : List Byte) (x : Reg) :
    (s.storeBytes base bs).reg x = s.reg x := by
  simp [State.reg]

/-- A store changes memory alone. -/
theorem State.storeBytes_eq (base : Nat) (bs : List Byte) :
    s.storeBytes base bs = { s with mem := (s.storeBytes base bs).mem } := by
  induction bs generalizing base with
  | nil => rfl
  | cons b bs ih => simp only [State.storeBytes]; rw [ih (base + 1)]; rfl

/-- A store keeps the canonical form. -/
theorem State.storeBytes_memWf (base : Nat) (bs : List Byte) (h : s.memWf) : (s.storeBytes base bs).memWf := by
  induction bs generalizing base with
  | nil => exact h
  | cons b bs ih => exact Memory.write_wf _ _ _ _ (ih (base + 1))

/-- A byte outside the stored ones reads as before. -/
theorem State.byteAt_storeBytes_outside (base : Nat) (bs : List Byte) (a : Nat)
    (h : a < base ∨ base + bs.length ≤ a) : (s.storeBytes base bs).byteAt a = s.byteAt a := by
  induction bs generalizing base with
  | nil => rfl
  | cons b bs ih =>
    simp only [List.length_cons] at h
    have hne : a ≠ base := by omega
    exact (Memory.read_write_ne _ _ _ _ _ hne).trans (ih (base + 1) (by omega))

/-- A stored byte reads back, where the memory is canonical and the address exists. -/
theorem State.byteAt_storeBytes_inside (base : Nat) (bs : List Byte) (k : Nat) (hk : k < bs.length)
    (hm : s.memWf) (ha : base + k < 4096) : (s.storeBytes base bs).byteAt (base + k) = bs[k] := by
  induction bs generalizing base k with
  | nil => simp at hk
  | cons b bs ih =>
    cases k with
    | zero => exact Memory.read_write_same _ _ _ _ (s.storeBytes_memWf (base + 1) bs hm) ha
    | succ k =>
      have hne : base + (k + 1) ≠ base := by omega
      refine (Memory.read_write_ne _ _ _ _ _ hne).trans ?_
      rw [show base + (k + 1) = base + 1 + k by omega]
      exact ih (base + 1) k (by simpa using hk) (by omega)

/-! ### Fetch and the end of a Cycle -/

/-- Fetch succeeds exactly when both bytes exist (30_encoding.md R81). -/
theorem State.fetch_ok (h : s.pc.toNat ≤ 0xFFE) : s.fetch = .ok (s.wordAt s.pc.toNat) := by
  have : firstFailing readCheck s.pc.toNat 2 = none := by
    rw [firstFailing_eq_none]
    intro k hk
    rw [readCheck_eq_none]
    omega
  simp [State.fetch, this]

/-- Fetch faults at pc, or at pc + 1 where pc is the last byte (60_exceptions.md R245). -/
theorem State.fetch_error (h : 0xFFE < s.pc.toNat) :
    s.fetch = .error (.addressOutOfRange, max s.pc.toNat 0x1000) := by
  have : firstFailing readCheck s.pc.toNat 2 = some (.addressOutOfRange, max s.pc.toNat 0x1000) := by
    rw [firstFailing_eq_some]
    rcases Nat.lt_or_ge s.pc.toNat 0x1000 with hlt | hge
    · refine ⟨1, by omega, by omega, (readCheck_eq_some _ _).2 ⟨by omega, rfl⟩, fun j hj => ?_⟩
      rw [readCheck_eq_none]
      omega
    · exact ⟨0, by omega, by omega, (readCheck_eq_some _ _).2 ⟨by omega, rfl⟩, fun j hj => by omega⟩
  simp [State.fetch, this]

/-- The coupled tick is no tick under DECOUPLED. -/
theorem State.coupledTick_decoupled (h : s.cfg.timerPolicy = .decoupled) : s.coupledTick = s := by
  simp [State.coupledTick, h]

/-- The coupled tick is a tick under CYCLE_COUPLED. -/
theorem State.coupledTick_cycleCoupled (h : s.cfg.timerPolicy = .cycleCoupled) : s.coupledTick = s.tick := by
  simp [State.coupledTick, h]

/-- The end of a Cycle that raised nothing. -/
theorem State.endCycle_ok (h : s.fault = none) : s.endCycle = { s.coupledTick with result := .ok } := by
  simp [State.endCycle, h]

/-- The end of a Cycle that raised a fault: no tick (R242). -/
theorem State.endCycle_faulted (f : FaultRecord) (h : s.fault = some f) :
    s.endCycle = { s with result := .faulted f } := by
  simp [State.endCycle, h]

/-! ### Keys -/

/-- A key test on a key that exists. -/
theorem State.keyTest_of_lt (k : Byte) (level : Bool) (h : k.toNat < 16) :
    s.keyTest k level = s.skipIf (s.key[k.toNat] == level) := by
  simp [State.keyTest, h]

/-- A key test on a key number above 15. -/
theorem State.keyTest_of_ge (k : Byte) (level : Bool) (h : 16 ≤ k.toNat) :
    s.keyTest k level = s.raise .keyIndexOutOfRange k.toNat := by
  simp [State.keyTest, Nat.not_lt.2 h]

/-- No key is pressed exactly when the wait finds none. -/
theorem State.lowestKey_eq_none : s.lowestKey = none ↔ ∀ k : Fin 16, (s.key[k.val]'k.isLt) = false := by
  simp only [State.lowestKey, List.findIdx?_eq_none_iff, id_eq, Vector.mem_toList_iff, Vector.mem_iff_getElem]
  constructor
  · intro h k
    exact h _ ⟨k.val, k.isLt, rfl⟩
  · rintro h _ ⟨i, hi, rfl⟩
    exact h ⟨i, hi⟩

/-- The key the wait finds is pressed, and no lower one is (44_keypad_timers.md R223). -/
theorem State.lowestKey_eq_some (k : Nat) : s.lowestKey = some k ↔
    ∃ h : k < 16, s.key[k] = true ∧ ∀ j (hj : j < k), s.key[j] = false := by
  simp only [State.lowestKey, List.findIdx?_eq_some_iff_getElem, id_eq, Vector.getElem_toList,
    Vector.length_toList, Bool.not_eq_true]

/-! ### The timers -/

theorem countDown_toNat (t : Byte) : (countDown t).toNat = t.toNat - 1 := by
  unfold countDown
  split
  · next h => simp [h]
  · next h =>
    have : t.toNat ≠ 0 := fun e => h (BitVec.eq_of_toNat_eq (by simpa using e))
    simp [BitVec.toNat_sub]
    omega

end Sys2Proof.Machine
end

