-- ==== Sys2Proof/Laws/Display.lean ====
section
/-! SUPPORT. What drawing does to one pixel and to the collision (43_display.md R203, R204). -/

namespace Sys2Proof.Machine

/-- Pixels in bounds have indices of their own. -/
theorem pixelIndex_inj (x y x' y' : Nat) (hx : x < 64) (hx' : x' < 64) :
    pixelIndex x y = pixelIndex x' y' ↔ x = x' ∧ y = y' := by
  unfold pixelIndex
  omega

theorem pixelIndex_lt (x y : Nat) (hx : x < 64) (hy : y < 32) : pixelIndex x y < 2048 := by
  unfold pixelIndex
  omega

/-- One flip: the pixel it names, if in bounds, and no other. -/
theorem Canvas.flip_pixel (k : Canvas) (x y px py : Nat) (hx : px < 64) (hy : py < 32) :
    (k.flip x y).video.getLsbD (pixelIndex px py) =
      (k.video.getLsbD (pixelIndex px py) != decide (px = x ∧ py = y)) := by
  unfold Canvas.flip
  split
  · next h =>
    simp only [BitVec.getLsbD_xor, BitVec.getLsbD_twoPow, pixelIndex_lt x y h.1 h.2, decide_true, Bool.true_and,
      pixelIndex_inj x y px py h.1 hx]
    by_cases hp : px = x ∧ py = y
    · simp [hp]
    · have hp' : ¬(x = px ∧ y = py) := fun e => hp ⟨e.1.symm, e.2.symm⟩
      simp [hp, hp']
  · next h =>
    have : ¬(px = x ∧ py = y) := by omega
    simp [this]

/-- One flip's collision. -/
theorem Canvas.flip_collision (k : Canvas) (x y : Nat) :
    (k.flip x y).collision = (k.collision || (decide (x < 64 ∧ y < 32) && k.video.getLsbD (pixelIndex x y))) := by
  unfold Canvas.flip
  split
  · next h => simp [h]
  · next h => simp [h]

/-- The first `n` columns of a row flip exactly their own set pixels. -/
theorem Canvas.drawColumns_pixel (k : Canvas) (row : Byte) (x y n px py : Nat) (hx : px < 64) (hy : py < 32) :
    (k.drawColumns row x y n).video.getLsbD (pixelIndex px py) =
      (k.video.getLsbD (pixelIndex px py) != decide (py = y ∧ ∃ c, c < n ∧ px = x + c ∧ spriteBit row c = true)) := by
  induction n with
  | zero => simp [Canvas.drawColumns]
  | succ n ih =>
    simp only [Canvas.drawColumns]
    have split_last : (∃ c, c < n + 1 ∧ px = x + c ∧ spriteBit row c = true) ↔
        (∃ c, c < n ∧ px = x + c ∧ spriteBit row c = true) ∨ (px = x + n ∧ spriteBit row n = true) := by
      constructor
      · rintro ⟨c, h1, h2, h3⟩
        rcases Nat.lt_or_ge c n with h | h
        · exact .inl ⟨c, h, h2, h3⟩
        · obtain rfl : c = n := by omega
          exact .inr ⟨h2, h3⟩
      · rintro (⟨c, h1, h2, h3⟩ | ⟨h1, h2⟩)
        · exact ⟨c, by omega, h2, h3⟩
        · exact ⟨n, by omega, h1, h2⟩
    split
    · next hb =>
      rw [Canvas.flip_pixel _ _ _ _ _ hx hy, ih]
      by_cases hpn : px = x + n
      · by_cases hpy : py = y
        · simp only [split_last]; subst hpn; subst hpy; simp [hb]
        · simp [hpy]
      · simp only [split_last]; simp [hpn]
    · next hb => rw [ih]; simp only [split_last]; simp [hb]

/-- The first `n` columns of a row collide exactly where one of their set pixels was 1 before the row. -/
theorem Canvas.drawColumns_collision (k : Canvas) (row : Byte) (x y n : Nat) :
    (k.drawColumns row x y n).collision = true ↔ k.collision = true ∨
      ∃ c, c < n ∧ x + c < 64 ∧ y < 32 ∧ spriteBit row c = true ∧ k.video.getLsbD (pixelIndex (x + c) y) = true := by
  induction n with
  | zero => simp [Canvas.drawColumns]
  | succ n ih =>
    simp only [Canvas.drawColumns]
    have here : x + n < 64 → y < 32 → (k.drawColumns row x y n).video.getLsbD (pixelIndex (x + n) y) =
        k.video.getLsbD (pixelIndex (x + n) y) := by
      intro h1 h2
      rw [Canvas.drawColumns_pixel _ _ _ _ _ _ _ h1 h2]
      have : ¬∃ c, c < n ∧ x + n = x + c ∧ spriteBit row c = true := by
        rintro ⟨c, h, h', -⟩
        omega
      simp only [this, and_false, decide_false, Bool.bne_false]
    have step : (∃ c, c < n + 1 ∧ x + c < 64 ∧ y < 32 ∧ spriteBit row c = true ∧
          k.video.getLsbD (pixelIndex (x + c) y) = true) ↔
        (∃ c, c < n ∧ x + c < 64 ∧ y < 32 ∧ spriteBit row c = true ∧
          k.video.getLsbD (pixelIndex (x + c) y) = true) ∨
        (x + n < 64 ∧ y < 32 ∧ spriteBit row n = true ∧ k.video.getLsbD (pixelIndex (x + n) y) = true) := by
      constructor
      · rintro ⟨c, h1, h2⟩
        rcases Nat.lt_or_ge c n with h | h
        · exact .inl ⟨c, h, h2⟩
        · obtain rfl : c = n := by omega
          exact .inr h2
      · rintro (⟨c, h1, h2⟩ | h)
        · exact ⟨c, by omega, h2⟩
        · exact ⟨n, by omega, h⟩
    rw [step]
    split
    · next hb =>
      rw [Canvas.flip_collision, Bool.or_eq_true, ih, Bool.and_eq_true, decide_eq_true_eq, or_assoc]
      by_cases h1 : x + n < 64 ∧ y < 32
      · rw [here h1.1 h1.2]
        simp [h1, hb]
      · have hn : ¬(x + n < 64 ∧ y < 32 ∧ spriteBit row n = true ∧
            k.video.getLsbD (pixelIndex (x + n) y) = true) := fun e => h1 ⟨e.1, e.2.1⟩
        simp [h1, hn]
    · next hb => rw [ih]; simp [hb]

/-- The sprite bit that lands on a pixel, with the sprite's rows at origin (x, y). -/
def spriteCovers (rows : List Byte) (x y px py : Nat) : Prop :=
  ∃ r c, ∃ h : r < rows.length, c < 8 ∧ px = x + c ∧ py = y + r ∧ spriteBit rows[r] c = true

theorem spriteCovers_cons (row : Byte) (rows : List Byte) (x y px py : Nat) :
    spriteCovers (row :: rows) x y px py ↔
      (py = y ∧ ∃ c, c < 8 ∧ px = x + c ∧ spriteBit row c = true) ∨ spriteCovers rows x (y + 1) px py := by
  unfold spriteCovers
  constructor
  · rintro ⟨r, c, h, h1, h2, h3, h4⟩
    cases r with
    | zero => exact .inl ⟨by omega, c, h1, h2, h4⟩
    | succ r => exact .inr ⟨r, c, by simpa using h, h1, h2, by omega, by simpa using h4⟩
  · rintro (⟨h1, c, h2, h3, h4⟩ | ⟨r, c, h, h1, h2, h3, h4⟩)
    · exact ⟨0, c, by simp, h2, h3, by omega, by simpa using h4⟩
    · exact ⟨r + 1, c, by simpa using h, h1, h2, by omega, by simpa using h4⟩

open Classical in
/-- After a sprite, a pixel is flipped exactly when a set sprite bit lands on it. -/
theorem Canvas.drawRows_pixel (k : Canvas) (x y : Nat) (rows : List Byte) (px py : Nat) (hx : px < 64) (hy : py < 32) :
    (k.drawRows x y rows).video.getLsbD (pixelIndex px py) =
      (k.video.getLsbD (pixelIndex px py) != decide (spriteCovers rows x y px py)) := by
  induction rows generalizing k y with
  | nil => simp [Canvas.drawRows, spriteCovers]
  | cons row rows ih =>
    simp only [Canvas.drawRows]
    rw [ih, Canvas.drawColumns_pixel _ _ _ _ _ _ _ hx hy]
    have later : spriteCovers rows x (y + 1) px py → py ≠ y := by
      rintro ⟨r, c, h, -, -, h3, -⟩
      omega
    by_cases hrow : py = y ∧ ∃ c, c < 8 ∧ px = x + c ∧ spriteBit row c = true
    · have hl : ¬spriteCovers rows x (y + 1) px py := fun e => later e hrow.1
      rw [decide_eq_true hrow, decide_eq_false hl, decide_eq_true ((spriteCovers_cons ..).2 (.inl hrow)), Bool.bne_false]
    · have same : spriteCovers (row :: rows) x y px py ↔ spriteCovers rows x (y + 1) px py := by
        rw [spriteCovers_cons]
        exact or_iff_right hrow
      rw [decide_eq_false hrow, Bool.bne_false, decide_eq_decide.2 same]

/-- A sprite collides exactly when a set sprite bit lands in bounds on a pixel that was 1 before the draw. -/
theorem Canvas.drawRows_collision (k : Canvas) (x y : Nat) (rows : List Byte) :
    (k.drawRows x y rows).collision = true ↔ k.collision = true ∨
      ∃ px py, px < 64 ∧ py < 32 ∧ spriteCovers rows x y px py ∧ k.video.getLsbD (pixelIndex px py) = true := by
  induction rows generalizing k y with
  | nil => simp [Canvas.drawRows, spriteCovers]
  | cons row rows ih =>
    simp only [Canvas.drawRows]
    rw [ih, Canvas.drawColumns_collision, or_assoc]
    refine or_congr_right ?_
    have later : ∀ px py, spriteCovers rows x (y + 1) px py → py ≠ y := by
      rintro px py ⟨r, c, h, -, -, h3, -⟩
      omega
    have same : ∀ px py, px < 64 → py < 32 → spriteCovers rows x (y + 1) px py →
        (k.drawColumns row x y 8).video.getLsbD (pixelIndex px py) = k.video.getLsbD (pixelIndex px py) := by
      intro px py hx hy hc
      rw [Canvas.drawColumns_pixel _ _ _ _ _ _ _ hx hy]
      simp [later px py hc]
    constructor
    · rintro (⟨c, h1, h2, h3, h4, h5⟩ | ⟨px, py, hx, hy, hc, hv⟩)
      · exact ⟨x + c, y, h2, h3, (spriteCovers_cons ..).2 (.inl ⟨rfl, c, h1, rfl, h4⟩), h5⟩
      · exact ⟨px, py, hx, hy, (spriteCovers_cons ..).2 (.inr hc), by rwa [same px py hx hy hc] at hv⟩
    · rintro ⟨px, py, hx, hy, hc, hv⟩
      rcases (spriteCovers_cons ..).1 hc with ⟨rfl, c, h1, rfl, h4⟩ | hc
      · exact .inl ⟨c, h1, hx, hy, h4, hv⟩
      · exact .inr ⟨px, py, hx, hy, hc, by rwa [same px py hx hy hc]⟩

end Sys2Proof.Machine
end

