-- ==== Sys2Proof/Laws/Step.lean ====
section
/-! SUPPORT. What a Cycle can do, said once: it repeats a latched fault, faults in its fetch, passes over an unrecognized
word, or runs the decoded instruction. -/

namespace Sys2Proof.Machine

variable (s : State)

theorem cycle_of_latched (f : FaultRecord) (h : s.fault = some f) : cycle s = .next (s.refault f) := by
  simp [cycle, h]

theorem cycle_of_badPc (h : s.fault = none) (hpc : 0xFFE < s.pc.toNat) :
    cycle s = .next (s.fetchFault .addressOutOfRange (max s.pc.toNat 0x1000)) := by
  simp [cycle, h, s.fetch_error hpc]

theorem cycle_of_unknown (h : s.fault = none) (hpc : s.pc.toNat ≤ 0xFFE) (e : DecodeError)
    (hd : decode (s.wordAt s.pc.toNat) = .error e) : cycle s = .next (s.unknownWord (s.wordAt s.pc.toNat)) := by
  simp [cycle, h, s.fetch_ok hpc, hd]

theorem cycle_of_decoded (h : s.fault = none) (hpc : s.pc.toNat ≤ 0xFFE) (i : Instr)
    (hd : decode (s.wordAt s.pc.toNat) = .ok i) : cycle s = finishCycle (exec i s.advance) := by
  simp [cycle, h, s.fetch_ok hpc, hd]

/-- The four cases of a Cycle; every state is in one of them. -/
theorem cycle_cases :
    (∃ f, s.fault = some f ∧ cycle s = .next (s.refault f)) ∨
    (s.fault = none ∧ 0xFFE < s.pc.toNat ∧
      cycle s = .next (s.fetchFault .addressOutOfRange (max s.pc.toNat 0x1000))) ∨
    (s.fault = none ∧ s.pc.toNat ≤ 0xFFE ∧ (∃ e, decode (s.wordAt s.pc.toNat) = .error e) ∧
      cycle s = .next (s.unknownWord (s.wordAt s.pc.toNat))) ∨
    (s.fault = none ∧ s.pc.toNat ≤ 0xFFE ∧ ∃ i, decode (s.wordAt s.pc.toNat) = .ok i ∧
      cycle s = finishCycle (exec i s.advance)) := by
  cases h : s.fault with
  | some f => exact .inl ⟨f, rfl, cycle_of_latched s f h⟩
  | none =>
    refine .inr ?_
    rcases Nat.lt_or_ge 0xFFE s.pc.toNat with hpc | hpc
    · exact .inl ⟨rfl, hpc, cycle_of_badPc s h hpc⟩
    · refine .inr ?_
      cases hd : decode (s.wordAt s.pc.toNat) with
      | error e => exact .inl ⟨rfl, hpc, ⟨e, rfl⟩, cycle_of_unknown s h hpc e hd⟩
      | ok i => exact .inr ⟨rfl, hpc, i, rfl, cycle_of_decoded s h hpc i hd⟩

/-- With nothing queued a step is a Cycle. -/
theorem step_of_idle (h : s.pending = []) : step s = cycle s := by
  simp [step, h]

/-- With transactions queued a step performs the oldest. -/
theorem step_of_pending (t : Txn) (rest : List Txn) (h : s.pending = t :: rest) :
    step s = perform t { s with pending := rest } := by
  simp [step, h]

end Sys2Proof.Machine
end

