-- ==== Sys2Proof/Laws/Exec.lean ====
section
/-! SUPPORT. What every meaning has in common: it answers a next state, and it raises its fault before it changes anything. -/

namespace Sys2Proof.Machine

variable (s : State)

/-- A guarded instruction that answered `u` completed, or raised at its lowest failing address. -/
theorem State.unlessFailing_next (failing : Option (FaultCode × Nat)) (t u : State)
    (h : s.unlessFailing failing t = .next u) :
    (failing = none ∧ u = t) ∨ ∃ code a, failing = some (code, a) ∧ u = s.raise code a := by
  rcases s.unlessFailing_cases failing t with ⟨hf, e⟩ | ⟨code, a, hf, e⟩
  · rw [e] at h; cases h; exact .inl ⟨hf, rfl⟩
  · rw [e] at h; cases h; exact .inr ⟨code, a, hf, rfl⟩

/-- A key test skips, does not, or raises (44_keypad_timers.md R220, R221). -/
theorem State.keyTest_cases (k : Byte) (level : Bool) :
    (∃ c, s.keyTest k level = s.skipIf c) ∨ ∃ code a, s.keyTest k level = s.raise code a := by
  rcases Nat.lt_or_ge k.toNat 16 with h | h
  · exact .inl ⟨_, s.keyTest_of_lt k level h⟩
  · exact .inr ⟨_, _, s.keyTest_of_ge k level h⟩

/-- No instruction stops the block: every one answers a next state (60_exceptions.md R242, R248). -/
theorem exec_next (i : Instr) : ∃ t, exec i s = .next t := by
  cases i
  case ret => simp only [exec, execRet]; split <;> exact ⟨_, rfl⟩
  case call => simp only [exec, execCall]; split <;> exact ⟨_, rfl⟩
  case ldVxK => simp only [exec, execLdVxK]; split <;> exact ⟨_, rfl⟩
  case ldB | storeRegs | loadRegs | drw =>
    all_goals
      simp only [exec, execLdB, execStoreRegs, State.storeAtIndex, execLoadRegs, execDrw]
      rcases State.unlessFailing_cases s _ _ with ⟨_, e⟩ | ⟨_, _, _, e⟩ <;> exact ⟨_, e⟩
  all_goals exact ⟨_, rfl⟩

/-- An instruction leaves the latch as it was, or its answer is the fault entry on the state it started from. -/
theorem exec_fault_cases (i : Instr) (t : State) (h : exec i s = .next t) :
    t.fault = s.fault ∨ ∃ code a, t = s.raise code a := by
  cases i <;>
    simp only [exec, execCls, execRet, execJp, execCall, execSeImm, execSneImm, execSeReg, execSneReg, execJpV0, execLdImm,
      execAddImm, execLdReg, execOrReg, execAndReg, execXorReg, execAddReg, execSubReg, execShr, execSubnReg, execShl,
      execRnd, execLdI, execAddI, execLdF, execLdB, execStoreRegs, execLoadRegs, execDrw, execSkp, execSknp, execLdVxK,
      execLdVxDt, execLdDtVx, execLdStVx, State.storeAtIndex] at h
  case ret => split at h <;> cases h <;> [exact .inr ⟨_, _, rfl⟩; exact .inl rfl]
  case call => split at h <;> cases h <;> [exact .inl rfl; exact .inr ⟨_, _, rfl⟩]
  case ldVxK => split at h <;> (cases h; exact .inl rfl)
  case skp x =>
    cases h
    rcases s.keyTest_cases (s.reg x) true with ⟨c, e⟩ | ⟨code, a, e⟩ <;> rw [e]
    · exact .inl (by simp)
    · exact .inr ⟨_, _, rfl⟩
  case sknp x =>
    cases h
    rcases s.keyTest_cases (s.reg x) false with ⟨c, e⟩ | ⟨code, a, e⟩ <;> rw [e]
    · exact .inl (by simp)
    · exact .inr ⟨_, _, rfl⟩
  case ldB | storeRegs | loadRegs | drw =>
    all_goals
      rcases State.unlessFailing_next _ _ _ _ h with ⟨_, rfl⟩ | ⟨code, a, _, rfl⟩
      · exact .inl (by simp)
      · exact .inr ⟨_, _, rfl⟩
  all_goals (cases h; left; simp [State.subtractInto])

/-- The run of k + 1 steps, by its first step. -/
theorem core_run_succ (k : Nat) (t : State) (h : step s = .next t) : core.run (k + 1) s = core.run k t := by
  have e : core.step s = .next t := h
  simp only [Host.Core.run, e]

end Sys2Proof.Machine
end

