-- ==== Sys2Proof/Laws/Run.lean ====
section
/-! SUPPORT. The two ways a run goes at a state: it has ended there, or it takes a step. -/

namespace Sys2Proof.Machine

variable (s : State)

@[simp] theorem State.runEnded_hostStops : s.runEnded .hostStops = s.pending.isEmpty := rfl
@[simp] theorem State.runEnded_latchSet : s.runEnded .latchSet = s.fault.isSome := rfl
@[simp] theorem State.runEnded_selfJump : s.runEnded .selfJump = s.atSelfJump := rfl

@[simp] theorem runUntil_zero (e : RunEnd) : runUntil e 0 s = .next s := rfl

/-- A run that has ended leaves the state as it is. -/
theorem runUntil_of_ended (e : RunEnd) (n : Nat) (h : s.runEnded e = true) : runUntil e n s = .next s := by
  cases n with
  | zero => rfl
  | succ n => simp [runUntil, h]

/-- A run that has not ended goes on from the next state. -/
theorem runUntil_succ (e : RunEnd) (n : Nat) (t : State) (h : s.runEnded e = false) (hs : step s = .next t) :
    runUntil e (n + 1) s = runUntil e n t := by
  simp [runUntil, h, hs]

end Sys2Proof.Machine
end

