-- ==== Sys2Proof/Tests/Slice0.lean ====
section
/-! SUPPORT. The model's own tests. Every expected value is the spec's: the examples of the rules and the vectors of
95_test_vectors.md, whose id stands in the comment before each test. -/

namespace Sys2Proof.Tests

open Sys2Proof.Machine

/-! ### Helpers -/

/-- The state a step or a meaning answers; the reset state where it answers none. -/
def after : Result → State
  | .next t => t
  | .fault _ => State.reset
  | .refused _ => State.reset

/-- One Cycle on a word placed at pc. -/
def run (w : Nat) (s : State) : State := after (step (s.withFetchWord 16 w))

/-- The reset state with some registers set. -/
def withRegs (rs : List (Reg × Byte)) : State := rs.foldl (fun s r => s.setReg r.1 r.2) State.reset

/-- The reset state with I and some registers set. -/
def withIndex (i : Word) (rs : List (Reg × Byte)) : State := { withRegs rs with idx := i }

/-- The state with one key pressed. -/
def press (k : Fin 16) (s : State) : State := { s with key := s.key.set k.val true k.isLt }

/-- The state under CYCLE_COUPLED. -/
def coupled (s : State) : State := { s with cfg := { s.cfg with timerPolicy := .cycleCoupled } }

/-- The state without the low-memory protection. -/
def unprotected (s : State) : State := { s with cfg := { s.cfg with protectLowMemory := false } }

/-- The pixels of a list of indices, together. -/
def pixelsOf (ps : List Nat) : BitVec 2048 := ps.foldl (fun v p => v ||| BitVec.twoPow 2048 p) 0

/-! ### The words of R82, written out from the patterns -/

theorem test_decode_cls : decode 0b0000000011100000 = .ok .cls := by decide
theorem test_decode_ret : decode 0b0000000011101110 = .ok .ret := by decide
theorem test_decode_jp : decode 0b0001001000110100 = .ok (.jp 0x234) := by decide
theorem test_decode_call : decode 0b0010001100000000 = .ok (.call 0x300) := by decide
theorem test_decode_seImm : decode 0b0011001100010000 = .ok (.seImm 3 0x10) := by decide
theorem test_decode_sneImm : decode 0b0100001100010001 = .ok (.sneImm 3 0x11) := by decide
theorem test_decode_seReg : decode 0b0101000100100000 = .ok (.seReg 1 2) := by decide
theorem test_decode_ldImm : decode 0b0110101001011100 = .ok (.ldImm 0xA 0x5C) := by decide
theorem test_decode_addImm : decode 0b0111000011111111 = .ok (.addImm 0 0xFF) := by decide
theorem test_decode_ldReg : decode 0b1000000100100000 = .ok (.ldReg 1 2) := by decide
theorem test_decode_orReg : decode 0b1000000100100001 = .ok (.orReg 1 2) := by decide
theorem test_decode_andReg : decode 0b1000000100100010 = .ok (.andReg 1 2) := by decide
theorem test_decode_xorReg : decode 0b1000000100100011 = .ok (.xorReg 1 2) := by decide
theorem test_decode_addReg : decode 0b1000000100100100 = .ok (.addReg 1 2) := by decide
theorem test_decode_subReg : decode 0b1000000100100101 = .ok (.subReg 1 2) := by decide
theorem test_decode_shr : decode 0b1000000100100110 = .ok (.shr 1 2) := by decide
theorem test_decode_subnReg : decode 0b1000000100100111 = .ok (.subnReg 1 2) := by decide
/-- V-E9: the ignored y is kept as syntax. -/
theorem test_decode_shl : decode 0b1000111100011110 = .ok (.shl 0xF 1) := by decide
theorem test_decode_sneReg : decode 0b1001000100100000 = .ok (.sneReg 1 2) := by decide
theorem test_decode_ldI : decode 0b1010000100100011 = .ok (.ldI 0x123) := by decide
theorem test_decode_jpV0 : decode 0b1011001100000000 = .ok (.jpV0 0x300) := by decide
theorem test_decode_rnd : decode 0b1100001100001111 = .ok (.rnd 3 0x0F) := by decide
theorem test_decode_drw : decode 0b1101000100100101 = .ok (.drw 1 2 5) := by decide
theorem test_decode_skp : decode 0b1110000110011110 = .ok (.skp 1) := by decide
theorem test_decode_sknp : decode 0b1110000110100001 = .ok (.sknp 1) := by decide
theorem test_decode_ldVxDt : decode 0b1111001000000111 = .ok (.ldVxDt 2) := by decide
theorem test_decode_ldDtVx : decode 0b1111000100010101 = .ok (.ldDtVx 1) := by decide
theorem test_decode_ldStVx : decode 0b1111001100011000 = .ok (.ldStVx 3) := by decide
theorem test_decode_addI : decode 0b1111001000011110 = .ok (.addI 2) := by decide
theorem test_decode_ldVxK : decode 0b1111010100001010 = .ok (.ldVxK 5) := by decide
theorem test_decode_ldF : decode 0b1111000100101001 = .ok (.ldF 1) := by decide
theorem test_decode_ldB : decode 0b1111000000110011 = .ok (.ldB 0) := by decide
theorem test_decode_storeRegs : decode 0b1111000101010101 = .ok (.storeRegs 1) := by decide
theorem test_decode_loadRegs : decode 0b1111001001100101 = .ok (.loadRegs 2) := by decide

/-! ### Ill-formed words, one for each way to miss the table: V-E1 to V-E8 -/

theorem test_illFormed_zero : wellFormedWord 0x0000 = false ∧ decode 0x0000 = .error (.unknownOpcode 0x0000) := by decide
theorem test_illFormed_sys : wellFormedWord 0x0123 = false ∧ decode 0x0123 = .error (.unknownOpcode 0x0123) := by decide
theorem test_illFormed_00E1 : wellFormedWord 0x00E1 = false ∧ decode 0x00E1 = .error (.unknownOpcode 0x00E1) := by decide
theorem test_illFormed_5xy1 : wellFormedWord 0x5121 = false ∧ decode 0x5121 = .error (.unknownOpcode 0x5121) := by decide
theorem test_illFormed_8xy8 : wellFormedWord 0x8128 = false ∧ decode 0x8128 = .error (.unknownOpcode 0x8128) := by decide
theorem test_illFormed_9xyF : wellFormedWord 0x912F = false ∧ decode 0x912F = .error (.unknownOpcode 0x912F) := by decide
theorem test_illFormed_ExA2 : wellFormedWord 0xE1A2 = false ∧ decode 0xE1A2 = .error (.unknownOpcode 0xE1A2) := by decide
theorem test_illFormed_FxFF : wellFormedWord 0xF1FF = false ∧ decode 0xF1FF = .error (.unknownOpcode 0xF1FF) := by decide
theorem test_illFormed_oneByte : decodeBytes [0x12] = .error .tooShort := by decide
theorem test_wellFormed_drw : wellFormedWord 0xDFFF = true := by decide

/-- The bytes of a word in memory order: S11's word 0x1234 with the next word behind it. -/
theorem test_decodeBytes : decodeBytes [0x12, 0x34, 0x00] = .ok (.jp 0x234, [0x00]) := by decide
theorem test_decodeTableWord : decodeTableWord 16 0xD125 = some (.drw 1 2 5) := by decide
theorem test_decodeTableWord_unknown : decodeTableWord 16 0x5121 = none := by decide

/-! ### Flow -/

/-- V-F1. -/
theorem test_jp : (run 0x1234 State.reset).pc = 0x234 := by decide
/-- V-F3. -/
theorem test_call : let t := run 0x2300 State.reset
    t.stack[0] = 0x202 ∧ t.sp = 1 ∧ t.pc = 0x300 := by decide
/-- V-F4. -/
theorem test_call_overflow : let t := run 0x2300 { State.reset with sp := 16 }
    t.fault = some ⟨.stackOverflow, 0x200, 0x2300, 16⟩ ∧ t.pc = 0x200 ∧ t.sp = 16 := by decide
/-- V-F5. -/
theorem test_ret_underflow : let t := run 0x00EE State.reset
    t.fault = some ⟨.stackUnderflow, 0x200, 0x00EE, 0⟩ ∧ t.pc = 0x200 := by decide
/-- V-F6. -/
theorem test_ret : let t := run 0x00EE { State.reset with sp := 2, stack := State.reset.stack.set 1 0x456 }
    t.sp = 1 ∧ t.pc = 0x456 ∧ t.stack[1] = 0x456 := by decide
/-- V-F7, V-F8. -/
theorem test_seImm : (run 0x3310 (withRegs [(3, 0x10)])).pc = 0x204 ∧ (run 0x3311 (withRegs [(3, 0x10)])).pc = 0x202 := by
  decide
/-- V-F9 and R114's example. -/
theorem test_sneImm : (run 0x4310 (withRegs [(3, 0x10)])).pc = 0x202 ∧ (run 0x4311 (withRegs [(3, 0x10)])).pc = 0x204 := by
  decide
/-- V-F10. -/
theorem test_seReg : (run 0x5120 (withRegs [(1, 7), (2, 7)])).pc = 0x204 := by decide
/-- V-F11. -/
theorem test_sneReg : (run 0x9120 (withRegs [(1, 7), (2, 8)])).pc = 0x204 := by decide
/-- V-F14: the sum is not reduced to 12 bits. -/
theorem test_jpV0_top : (run 0xBFFF (withRegs [(0, 0xFF)])).pc = 0x10FE := by decide
/-- V-F15: the offset is V0 whatever w[11:8] holds. -/
theorem test_jpV0 : (run 0xB100 (withRegs [(1, 0x0F)])).pc = 0x100 := by decide
/-- V-E11, second Cycle. -/
theorem test_fetch_fault : (after (step { State.reset with pc := 0xFFF })).fault =
    some ⟨.addressOutOfRange, 0xFFF, 0x0000, 0x1000⟩ := by decide
/-- V-F14, second Cycle. -/
theorem test_fetch_fault_above : (after (step { State.reset with pc := 0x10FE })).fault =
    some ⟨.addressOutOfRange, 0x10FE, 0x0000, 0x10FE⟩ := by decide
/-- V-F16: an odd pc is fetched. -/
theorem test_odd_pc : (run 0x1204 { State.reset with pc := 0x201 }).pc = 0x204 := by decide

/-! ### ALU -/

/-- V-A1. -/
theorem test_ldImm : (run 0x6A5C State.reset).reg 0xA = 0x5C := by decide
/-- V-A2: no flag. -/
theorem test_addImm : let t := run 0x70FF (withRegs [(0, 1), (15, 9)])
    t.reg 0 = 0 ∧ t.reg 15 = 9 := by decide
/-- V-A3. -/
theorem test_ldReg : (run 0x8120 (withRegs [(2, 0x33)])).reg 1 = 0x33 := by decide
/-- V-A4: VF is not reset. -/
theorem test_orReg : let t := run 0x8121 (withRegs [(1, 0x0F), (2, 0xF0), (15, 5)])
    t.reg 1 = 0xFF ∧ t.reg 15 = 5 := by decide
/-- V-A5. -/
theorem test_andReg : (run 0x8122 (withRegs [(1, 0x3C), (2, 0x0F)])).reg 1 = 0x0C := by decide
/-- V-A6. -/
theorem test_xorReg : (run 0x8123 (withRegs [(1, 0xFF), (2, 0x0F)])).reg 1 = 0xF0 := by decide
/-- V-A7. -/
theorem test_addReg : let t := run 0x8124 (withRegs [(1, 0xF0), (2, 0x20)])
    t.reg 1 = 0x10 ∧ t.reg 15 = 1 := by decide
/-- V-A9: the sum overwrites the carry. -/
theorem test_addReg_VF : (run 0x8F14 (withRegs [(15, 0xF0), (1, 0x20)])).reg 15 = 0x10 := by decide
/-- V-A12: strict at equality. -/
theorem test_subReg_equal : let t := run 0x8125 (withRegs [(1, 7), (2, 7), (15, 1)])
    t.reg 1 = 0 ∧ t.reg 15 = 0 := by decide
/-- V-A15: the subtrahend is the new VF. -/
theorem test_subReg_VF : let t := run 0x81F5 (withRegs [(1, 5), (15, 3)])
    t.reg 15 = 1 ∧ t.reg 1 = 4 := by decide
/-- V-A17. -/
theorem test_subnReg : let t := run 0x8127 (withRegs [(1, 3), (2, 5)])
    t.reg 1 = 2 ∧ t.reg 15 = 1 := by decide
/-- V-A18. -/
theorem test_subnReg_VF : (run 0x8F27 (withRegs [(15, 3), (2, 5)])).reg 15 = 4 := by decide
/-- V-A19: Vy is not used. -/
theorem test_shr : let t := run 0x8126 (withRegs [(1, 4), (2, 0xFF), (15, 1)])
    t.reg 1 = 2 ∧ t.reg 15 = 0 ∧ t.reg 2 = 0xFF := by decide
/-- V-A21. -/
theorem test_shr_VF : (run 0x8FF6 (withRegs [(15, 0xFF)])).reg 15 = 0 := by decide
/-- R150's example. -/
theorem test_shl : let t := run 0x810E (withRegs [(1, 0x81)])
    t.reg 1 = 2 ∧ t.reg 15 = 1 := by decide
/-- V-A23. -/
theorem test_shl_VF : (run 0x8FFE (withRegs [(15, 0x80)])).reg 15 = 2 := by decide
/-- V-A26: one draw is consumed. -/
theorem test_rnd_draws : (run 0xC300 State.reset).draws = State.reset.draws + 1 := by decide
/-- V-A25's form, with the draw free. -/
theorem test_rnd : (run 0xC30F State.reset).reg 3 = Config.rngByte State.reset.draws &&& 0x0F := by rfl

/-! ### Index and memory -/

/-- V-M1. -/
theorem test_ldI : (run 0xA123 State.reset).idx = 0x123 := by decide
/-- V-M3: wraps at 16 bits, no flag. -/
theorem test_addI : let t := run 0xF11E (withIndex 0xFFFF [(1, 2)])
    t.idx = 1 ∧ t.reg 15 = 0 := by decide
/-- V-M5: not masked to 4 bits. -/
theorem test_ldF : (run 0xF129 (withRegs [(1, 0xFF)])).idx = 0x4FB := by decide
/-- V-M7. -/
theorem test_ldB : let t := run 0xF033 (withIndex 0x300 [(0, 254)])
    [t.byteAt 0x300, t.byteAt 0x301, t.byteAt 0x302] = [2, 5, 4] := by decide
/-- V-M8: the first byte is protected, and nothing is written. -/
theorem test_ldB_protected : let t := run 0xF033 (withIndex 0x1FF [(0, 123)])
    t.fault = some ⟨.protectedWrite, 0x200, 0xF033, 0x1FF⟩ ∧ t.byteAt 0x200 = 0xF0 := by decide
/-- V-M9: unprotected, it overwrites its own word. -/
theorem test_ldB_unprotected : let t := run 0xF033 (unprotected (withIndex 0x1FF [(0, 123)]))
    [t.byteAt 0x1FF, t.byteAt 0x200, t.byteAt 0x201] = [1, 2, 3] := by decide
/-- V-M11. -/
theorem test_storeRegs : let t := run 0xF155 (withIndex 0x300 [(0, 1), (1, 2)])
    [t.byteAt 0x300, t.byteAt 0x301, t.byteAt 0x302] = [1, 2, 0] ∧ t.idx = 0x300 := by decide
/-- V-M14: the lowest failing address. -/
theorem test_storeRegs_top : (run 0xFF55 (withIndex 0xFF1 [])).fault =
    some ⟨.addressOutOfRange, 0x200, 0xFF55, 0x1000⟩ := by decide
/-- V-M15: the font may be read. -/
theorem test_loadRegs : let t := run 0xF465 State.reset
    [t.reg 0, t.reg 1, t.reg 2, t.reg 3, t.reg 4, t.reg 5] = [0xF0, 0x90, 0x90, 0x90, 0xF0, 0] := by decide
/-- V-M16: V0 is not written. -/
theorem test_loadRegs_top : let t := run 0xF165 (withIndex 0xFFF [(0, 7)])
    t.fault = some ⟨.addressOutOfRange, 0x200, 0xF165, 0x1000⟩ ∧ t.reg 0 = 7 := by decide

/-! ### Display -/

/-- V-D10. -/
theorem test_cls : (run 0x00E0 { State.reset with video := pixelsOf [0, 77, 2047] }).video = 0 := by decide +kernel
/-- V-D1 and V-D2. -/
theorem test_drw_twice : let t := run 0xD015 (withRegs [(0, 0x10)])
    t.video = pixelsOf [16, 17, 18, 19, 80, 83, 144, 147, 208, 211, 272, 273, 274, 275] ∧ t.reg 15 = 0 ∧
    (run 0xD015 { t with pc := 0x200 }).video = 0 ∧ (run 0xD015 { t with pc := 0x200 }).reg 15 = 1 := by decide +kernel
/-- V-D3: clipped at the right edge, no wrap. -/
theorem test_drw_clipped : (run 0xD015 (withRegs [(0, 62)])).video = pixelsOf [62, 63, 126, 190, 254, 318, 319] := by
  decide +kernel
/-- V-D7: no rows. -/
theorem test_drw_noRows : (run 0xD120 (withRegs [(15, 1)])).reg 15 = 0 := by decide
/-- V-D9. -/
theorem test_drw_fault : (run 0xD125 (withIndex 0xFFC [(15, 1)])).fault =
    some ⟨.addressOutOfRange, 0x200, 0xD125, 0x1000⟩ := by decide

/-! ### Keypad and timers -/

/-- V-K1, V-K2. -/
theorem test_skp : (run 0xE19E (press 7 (withRegs [(1, 7)]))).pc = 0x204 ∧ (run 0xE19E (withRegs [(1, 7)])).pc = 0x202 := by
  decide
/-- V-K4. -/
theorem test_skp_fault : (run 0xE19E (withRegs [(1, 0x10)])).fault =
    some ⟨.keyIndexOutOfRange, 0x200, 0xE19E, 0x10⟩ := by decide
/-- V-K3. -/
theorem test_sknp : (run 0xE1A1 (withRegs [(1, 7)])).pc = 0x204 := by decide
/-- V-K5. -/
theorem test_ldVxK : let t := run 0xF50A (press 3 (press 9 State.reset))
    t.reg 5 = 3 ∧ t.pc = 0x202 := by decide
/-- V-K6. -/
theorem test_ldVxK_waits : let t := run 0xF50A State.reset
    t.pc = 0x200 ∧ t.reg 5 = 0 ∧ t.fault = none ∧ t.diags = [] := by decide
/-- V-K7 and V-K10. -/
theorem test_ldVxDt : (run 0xF207 { State.reset with dt := 0x3C }).reg 2 = 0x3C ∧
    (run 0xF207 (coupled { State.reset with dt := 5 })).reg 2 = 5 ∧
    (run 0xF207 (coupled { State.reset with dt := 5 })).dt = 4 := by decide
/-- V-K8 and V-K11. -/
theorem test_ldDtVx : (run 0xF115 (withRegs [(1, 7)])).dt = 7 ∧ (run 0xF115 (coupled (withRegs [(1, 5)]))).dt = 4 := by
  decide
/-- V-K9. -/
theorem test_ldStVx : (run 0xF318 (withRegs [(3, 0x10)])).st = 0x10 := by decide

/-! ### Unrecognized words, the latch and the host's transactions -/

/-- S12 and V-T3. -/
theorem test_unknown : let t := run 0x5121 State.reset
    t.pc = 0x202 ∧ t.diags = [⟨0x5121, 0x200⟩] ∧ t.result = .diag ⟨0x5121, 0x200⟩ ∧
    (run 0x0000 (coupled { State.reset with dt := 3 })).dt = 2 := by decide
/-- V-T4: no tick in a faulting Cycle. -/
theorem test_fault_no_tick : (run 0x00EE (coupled { State.reset with dt := 3 })).dt = 3 := by decide
/-- V-X1: the latched record again. -/
theorem test_latched : let t := run 0x00EE State.reset
    (after (step t)).result = .faulted ⟨.stackUnderflow, 0x200, 0x00EE, 0⟩ ∧ (after (step t)).pc = 0x200 := by decide
/-- V-X3. -/
theorem test_init_clears : (after (step { run 0x00EE State.reset with pending := [.initBlock] })).fault = none := by
  decide
/-- V-T1. -/
theorem test_tickTimers : let t := after (step { State.reset with dt := 2, pending := [.tickTimers] })
    t.dt = 1 ∧ t.st = 0 := by decide
/-- S13. -/
theorem test_setKeyState : let s := { State.reset with pending := [.setKeyState 16 true, .setKeyState 3 true] }
    (after (step s)).key = State.reset.key ∧ (after (step (after (step s)))).key[3] = true := by decide
/-- R283 with P5's image. -/
theorem test_loadRom : let t := after (step { State.reset with pending := [.loadRom true [0x22, 0x00]] })
    t.result = .ok ∧ t.byteAt 0x200 = 0x22 ∧ (after (step t)).sp = 1 := by decide
/-- S9: one byte too many, and an unreadable source. -/
theorem test_loadRom_errors :
    (after (txnLoadRom true (List.replicate 3585 0xAA) State.reset)).result = .capacityError ∧
    (after (txnLoadRom false [] State.reset)).result = .ioError := by decide +kernel
/-- R243, R257, R261. -/
theorem test_reads : (after (step { State.reset with dt := 9, pending := [.readTimers] })).result = .timers 9 0 ∧
    (after (step { State.reset with pending := [.readFault] })).result = .latch none ∧
    (after (step { State.reset with video := 5, pending := [.getVideo] })).result = .pixels 5 := by decide +kernel
/-- R256, R288: the mix has no meaning. -/
theorem test_mixed_tick_refused : (match step (coupled { State.reset with pending := [.tickTimers] }) with
    | .refused r => r = .tickTimersUnderCycleCoupled | .next _ => False | .fault _ => False) := by rfl
/-- R241's numbers. -/
theorem test_faultNumbers : [FaultCode.stackOverflow, .stackUnderflow, .addressOutOfRange, .protectedWrite,
    .keyIndexOutOfRange].map FaultCode.number = [1, 2, 3, 4, 5] := by decide
/-- The memory a store leaves is canonical: writing what an unlisted address reads as lists nothing. -/
theorem test_memory_canonical : (Memory.write defaultConfig (Memory.write defaultConfig [] 0x300 7) 0x300 0) = [] ∧
    Memory.write defaultConfig [] 0 0xF0 = [] := by decide

/-! ### Witnesses: states and operands that meet the hypotheses of each statement, at the boundaries of its clauses -/

open Sys2Proof.Claims

/-- A ready state with a word at pc. -/
def placed (w : Nat) (s : State) : State := s.withFetchWord 16 w

/-- The reset state at another pc. -/
def atPc (pc : Word) : State := { State.reset with pc := pc }

/-- The reset state with sp entries in use. -/
def withSp (sp : Fin 17) : State := { State.reset with sp := sp }

/-- The state that raised STACK_UNDERFLOW. -/
def latchedState : State := run 0x00EE State.reset

theorem witness_EncodeOfDecode : decode 0xD125 = .ok (.drw 1 2 5) := by decide
theorem witness_DecodeRecognizes : ∀ w ∈ [0x0000, 0x5121],
    ∀ r ∈ opcodeRows, BitVec.ofNat 16 w &&& r.mask ≠ r.fixed := by decide
theorem witness_Fetch : (atPc 0xFFE).pc.toNat < 0xFFF ∧ 0xFFF ≤ (atPc 0xFFF).pc.toNat := by decide
theorem witness_StepRuns : ∀ pc ∈ [0x201, 0xFFE], let s := placed 0x1234 (atPc (BitVec.ofNat 16 pc))
    s.pending = [] ∧ s.fault = none ∧ s.pc.toNat ≤ 0xFFE ∧
    decode (wordOfBytes (s.byteAt s.pc.toNat) (s.byteAt (s.pc.toNat + 1))) = .ok (.jp 0x234) := by decide
theorem witness_PlacedWord : (atPc 0xFFE).memWf ∧ (atPc 0xFFE).pc.toNat ≤ 0xFFE := by decide
/-- Of LatchedFaultIsSticky and of SetLatchEndsARun. -/
theorem witness_Latched : latchedState.fault = some ⟨.stackUnderflow, 0x200, 0x00EE, 0⟩ ∧ latchedState.pending = [] := by
  decide
theorem witness_Latched_others : ∀ t ∈ [Txn.setKeyState 15 true, .getVideo, .readTimers, .tickTimers, .loadRom true [1]],
    perform t State.reset = .next (after (perform t State.reset)) := by
  intro t h
  simp only [List.mem_cons, List.not_mem_nil, or_false] at h
  rcases h with rfl | rfl | rfl | rfl | rfl <;> rfl
theorem witness_FetchBeyond : ∀ pc ∈ [0xFFF, 0x1000, 0x10FE, 0xFFFF], let s := atPc (BitVec.ofNat 16 pc)
    s.pending = [] ∧ s.fault = none ∧ 0xFFF ≤ s.pc.toNat := by decide
theorem witness_Unrecognized : ∀ s ∈ [State.reset, atPc 0xFFE, coupled State.reset, placed 0x5121 (atPc 0x201)],
    s.pending = [] ∧ s.fault = none ∧ s.pc.toNat ≤ 0xFFE ∧
    ∀ r ∈ opcodeRows, wordOfBytes (s.byteAt s.pc.toNat) (s.byteAt (s.pc.toNat + 1)) &&& r.mask ≠ r.fixed := by
  decide +kernel
/-- An instruction's fault, and a fetch's. -/
theorem witness_FaultEntry : ∀ s ∈ [placed 0x00EE State.reset, coupled (placed 0xF055 State.reset), atPc 0xFFF,
      { atPc 0xFFF with pending := [.tickTimers] }],
    s.fault = none ∧ ∃ t f, (perform .cycle s = .next t ∨ (s.pending = [] ∧ step s = .next t)) ∧ t.fault = some f := by
  intro s h
  simp only [List.mem_cons, List.not_mem_nil, or_false] at h
  rcases h with rfl | rfl | rfl | rfl <;> exact ⟨rfl, _, _, .inl rfl, rfl⟩
/-- A state of the invariant far from reset: a full stack of the highest return addresses and a latched fetch fault at the
highest pc, under CYCLE_COUPLED. -/
theorem witness_Inv : let s : State := { coupled State.reset with
      pc := 0x10FE, sp := 16, stack := Vector.replicate 16 0x1000, mem := [(0xFFF, 7)],
      fault := some ⟨.addressOutOfRange, 0x10FE, 0, 0x10FE⟩ }
    s.Inv ∧ step s = .next (after (step s)) := by
  refine ⟨⟨by decide, by decide, by decide, fun _ a ha => if_neg (by omega), ?_⟩, rfl⟩
  intro f h
  cases h
  rfl
/-- The invariant's premise of low memory, where it does not apply. -/
theorem witness_Inv_unprotected : let s : State := { unprotected State.reset with mem := [(0x1FF, 7)] }
    s.Inv ∧ step s = .next (after (step s)) :=
  ⟨⟨by decide, by decide, by decide, (by intro h; cases h), by intro f h; cases h⟩, rfl⟩
theorem witness_Authority : ∀ s ∈ [placed 0x6A5C State.reset, placed 0x6A5C (coupled State.reset)],
    s.fault = none ∧ s.pc.toNat ≤ 0xFFE ∧ decode (s.wordAt s.pc.toNat) = .ok (.ldImm 0xA 0x5C) ∧
    ∃ u, exec (.ldImm 0xA 0x5C) { s with pc := s.pc + 2 } = .next u ∧ u.fault = none := by
  intro s h
  simp only [List.mem_cons, List.not_mem_nil, or_false] at h
  rcases h with rfl | rfl <;> exact ⟨rfl, by decide, by decide, _, rfl, rfl⟩
theorem witness_Authority_policies : State.reset.cfg.timerPolicy = .decoupled ∧
    (coupled State.reset).cfg.timerPolicy = .cycleCoupled := by decide
theorem witness_InitializeForgets : let s := latchedState; let u := State.reset
    s.cfg = u.cfg ∧ s.draws = u.draws ∧ s.pending = u.pending ∧ s.diags = u.diags ∧ s.fault ≠ u.fault ∧
    perform .initBlock s = .next (after (perform .initBlock s)) := ⟨rfl, rfl, rfl, rfl, by decide, rfl⟩
theorem witness_LoadRom : (List.replicate 3585 (0xAA : Byte)).length > 3584 ∧
    (List.replicate 3584 (0xAA : Byte)).length ≤ 3584 ∧ ([] : List Byte).length ≤ 3584 ∧ State.reset.memWf := by
  simp only [List.length_replicate]
  decide
theorem witness_SetKeyState : 16 ≤ 16 ∧ ¬16 ≤ 15 ∧ State.reset.key[15] = false := by decide
theorem witness_LowMemory : let s := withIndex 0x200 []
    s.cfg.protectLowMemory = true ∧ exec (.storeRegs 0) s = .next (after (exec (.storeRegs 0) s)) ∧
    perform (.loadRom true [1]) s = .next (after (perform (.loadRom true [1]) s)) ∧
    perform .initBlock s = .next (after (perform .initBlock s)) := ⟨rfl, rfl, rfl, rfl⟩
theorem witness_LowMemory_others : ∀ t ∈ [Txn.tickTimers, .setKeyState 15 true, .getVideo, .readTimers, .readFault],
    perform t State.reset = .next (after (perform t State.reset)) := by
  intro t h
  simp only [List.mem_cons, List.not_mem_nil, or_false] at h
  rcases h with rfl | rfl | rfl | rfl | rfl <;> rfl
theorem witness_Call : (withSp 0).sp.val < 16 ∧ (withSp 15).sp.val < 16 ∧ (withSp 16).sp.val = 16 := by decide
theorem witness_Return : (withSp 1).sp.val = 0 + 1 ∧ (withSp 16).sp.val = 15 + 1 ∧ (withSp 0).sp.val = 0 := by decide
/-- Nested to the last entry, with the register file and pc changed between. -/
theorem witness_ReturnUndoesCall : let s := withSp 15; let t := after (exec (.call 0x300) s)
    let u : State := { t.setReg 3 9 with pc := 0x456 }
    s.sp.val < 16 ∧ exec (.call 0x300) s = .next t ∧ u.stack = t.stack ∧ u.sp = t.sp := ⟨by decide, rfl, rfl, rfl⟩
/-- The four cases of the flag forms, each with registers that meet it. -/
theorem witness_FlagForms : (1 : Reg) ≠ 15 ∧ (14 : Reg) ≠ 15 ∧ (15 : Reg) = 15 ∧
    (withRegs [(1, 0xF0), (2, 0x20)]).reg 1 ≠ (withRegs [(1, 0xF0), (2, 0x20)]).reg 2 := by decide
/-- A register beside the destination, and VF under an instruction that writes no flag. -/
theorem witness_OnlyNamedRegisters : exec (.addReg 1 2) State.reset = .next (after (exec (.addReg 1 2) State.reset)) ∧
    WritesRegister 5 (.addReg 1 2) = false ∧ ((5 : Reg) = 15 → WritesFlag (.addReg 1 2) = false) ∧
    exec (.loadRegs 14) State.reset = .next (after (exec (.loadRegs 14) State.reset)) ∧
    WritesRegister 15 (.loadRegs 14) = false ∧ ((15 : Reg) = 15 → WritesFlag (.loadRegs 14) = false) :=
  ⟨rfl, by decide, by decide, rfl, by decide, by decide⟩
theorem witness_StoreDecimal : WritesAllowed (withIndex 0x200 []) 3 ∧ WritesAllowed (withIndex 0xFFD []) 3 ∧
    WritesAllowed (unprotected (withIndex 0 [])) 3 ∧ (withIndex 0x200 []).memWf ∧
    (withIndex 0x1FF []).cfg.protectLowMemory = true ∧ (withIndex 0x1FF []).idx.toNat < 0x200 ∧
    0x1000 < (withIndex 0xFFE []).idx.toNat + 3 ∧ 0x1000 < (withIndex 0xFFFF []).idx.toNat + 3 := by
  simp only [WritesAllowed]
  decide
theorem witness_StoreRegisters : WritesAllowed (withIndex 0x200 []) 16 ∧ WritesAllowed (withIndex 0xFF0 []) 16 ∧
    WritesAllowed (withIndex 0xFFF []) 1 ∧ (withIndex 0xFF0 []).memWf ∧
    (withIndex 0x1FF []).cfg.protectLowMemory = true ∧ (withIndex 0x1FF []).idx.toNat < 0x200 ∧
    0x1000 < (withIndex 0xFF1 []).idx.toNat + 16 ∧ 0x1000 < (withIndex 0x1000 []).idx.toNat + 1 := by
  simp only [WritesAllowed]
  decide
theorem witness_LoadRegisters : (withIndex 0xFF0 []).idx.toNat + 16 ≤ 0x1000 ∧
    (withIndex 0 []).idx.toNat + 1 ≤ 0x1000 ∧ 0x1000 < (withIndex 0xFF1 []).idx.toNat + 16 := by decide
/-- With all the registers cleared between the store and the load. -/
theorem witness_LoadAfterStore : let s := withIndex 0xFFE [(0, 7), (1, 9)]; let t := after (exec (.storeRegs 1) s)
    let u : State := { t with v := State.reset.v }
    s.memWf ∧ WritesAllowed s 2 ∧ exec (.storeRegs 1) s = .next t ∧ u.mem = t.mem ∧ u.cfg = t.cfg ∧ u.idx = t.idx := by
  refine ⟨by decide, ?_, rfl, rfl, rfl, rfl⟩
  simp only [WritesAllowed]
  decide
/-- Both memory faults; the first at the second byte of three. -/
theorem witness_LowestFailing : ∀ p ∈ [(withIndex 0xFFF [], FaultCode.addressOutOfRange),
      (withIndex 0x1FF [], FaultCode.protectedWrite)],
    p.1.fault = none ∧ ∃ t f, exec (.ldB 0) p.1 = .next t ∧ t.fault = some f ∧ f.code = p.2 := by
  intro p h
  simp only [List.mem_cons, List.not_mem_nil, or_false] at h
  rcases h with rfl | rfl <;> exact ⟨rfl, _, _, rfl, rfl, rfl⟩
theorem witness_OnlyNamedMemory : exec (.loadRegs 3) State.reset = .next (after (exec (.loadRegs 3) State.reset)) ∧
    (∀ x, Instr.loadRegs 3 ≠ .ldB x) ∧ (∀ x, Instr.loadRegs 3 ≠ .storeRegs x) ∧ (∀ n, Instr.loadRegs 3 ≠ .ldI n) ∧
    (∀ x, Instr.loadRegs 3 ≠ .addI x) ∧ (∀ x, Instr.loadRegs 3 ≠ .ldF x) := by
  refine ⟨rfl, ?_, ?_, ?_, ?_, ?_⟩ <;> simp
/-- No rows, the last readable row, and one past it. -/
theorem witness_Draw : (withIndex 0xFFF []).idx.toNat + (1 : Fin 16).val ≤ 0x1000 ∧ (0 : Fin 16).val = 0 ∧
    (15 : Fin 16).val ≠ 0 ∧ 0x1000 < (withIndex 0xFF2 []).idx.toNat + (15 : Fin 16).val := by decide
/-- Glyph 0 at the origin (60, 31): its top row's column 0 lands on (60, 31), with the pixel clear and with it set. -/
theorem witness_Draw_hits : ∀ s ∈ [State.reset, { State.reset with video := BitVec.twoPow 2048 (31 * 64 + 60) }],
    SpriteHits s 5 60 31 60 31 ∧ ¬SpriteHits s 5 60 31 59 31 := by
  intro s h
  simp only [List.mem_cons, List.not_mem_nil, or_false] at h
  constructor
  · rcases h with rfl | rfl <;>
      exact ⟨0, 0, by decide, by decide, by decide, by decide, by simp only [SpriteBitSet]; decide⟩
  · rintro ⟨r, c, _, _, hx, _⟩
    omega
theorem witness_Draw_pixel : State.reset.pixel 60 31 = false ∧
    ({ State.reset with video := BitVec.twoPow 2048 (31 * 64 + 60) } : State).pixel 60 31 = true := by decide +kernel
/-- Also with VF as the origin, where the first draw leaves it 0. -/
theorem witness_DrawingTwice : State.reset.idx.toNat + (1 : Fin 16).val ≤ 0x1000 ∧
    (after (exec (.drw 15 14 1) State.reset)).reg 15 = State.reset.reg 15 ∧
    (after (exec (.drw 15 14 1) State.reset)).reg 14 = State.reset.reg 14 := by decide +kernel
theorem witness_OnlyClearAndDraw : exec (.ldImm 3 4) State.reset = .next (after (exec (.ldImm 3 4) State.reset)) ∧
    Instr.ldImm 3 4 ≠ .cls ∧ ∀ x y n, Instr.ldImm 3 4 ≠ .drw x y n := by
  refine ⟨rfl, ?_, ?_⟩ <;> simp
theorem witness_KeyTests : ((withRegs [(1, 15)]).reg 1).toNat < 16 ∧ 16 ≤ ((withRegs [(1, 16)]).reg 1).toNat := by decide
/-- The lowest key, the highest alone, and none. -/
theorem witness_KeyWait : (press 0 (press 15 State.reset)).key[0] = true ∧ (press 15 State.reset).key[15] = true ∧
    (∀ j (hj : j < 15), (press 15 State.reset).key[j] = false) ∧
    ∀ k (h : k < 16), State.reset.key[k] = false := by decide
theorem witness_KeyWaitRepeats : let s := placed 0xF50A State.reset
    s.Ready ∧ s.pc.toNat ≤ 0xFFE ∧ decode (s.wordAt s.pc.toNat) = .ok (.ldVxK 5) ∧
    ∀ k (h : k < 16), s.key[k] = false := ⟨⟨rfl, rfl⟩, by decide, by decide, by decide⟩
theorem witness_OnlyCallAndReturn : ∀ i ∈ [Instr.call 0x300, .ret, .jp 0x300],
    exec i (withSp 3) = .next (after (exec i (withSp 3))) := by
  intro i h
  simp only [List.mem_cons, List.not_mem_nil, or_false] at h
  rcases h with rfl | rfl | rfl <;> rfl
theorem witness_OnlyTimerLoads : exec (.ldVxDt 1) State.reset = .next (after (exec (.ldVxDt 1) State.reset)) ∧
    (∀ x, Instr.ldVxDt 1 ≠ .ldDtVx x) ∧ (∀ x, Instr.ldVxDt 1 ≠ .ldStVx x) ∧ ∀ x nn, Instr.ldVxDt 1 ≠ .rnd x nn := by
  refine ⟨rfl, ?_, ?_, ?_⟩ <;> simp
/-- A SetKeyState and an Initialize that change the keys. -/
theorem witness_OnlyTheHost : ∀ s ∈ [{ State.reset with pending := [.setKeyState 3 true] },
      { press 3 State.reset with pending := [.initBlock] }],
    step s = .next (after (step s)) ∧ (after (step s)).key ≠ s.key := by
  intro s h
  simp only [List.mem_cons, List.not_mem_nil, or_false] at h
  rcases h with rfl | rfl <;> exact ⟨rfl, by decide⟩
/-- A Cycle with another transaction behind it, and an empty queue. -/
theorem witness_Oldest : { State.reset with pending := [.cycle, .tickTimers] }.pending = .cycle :: [.tickTimers] ∧
    State.reset.pending = [] := ⟨rfl, rfl⟩
/-- The rest of the queue stays, and is performed next. -/
theorem test_queue : let s := { placed 0x6A5C State.reset with dt := 2, pending := [.cycle, .tickTimers] }
    (after (step s)).reg 0xA = 0x5C ∧ (after (step s)).pending = [.tickTimers] ∧ (after (step (after (step s)))).dt = 1 := by
  decide
/-- With fewer steps than the queue is long, and with more. -/
theorem witness_HostStop : State.reset.pending = [] ∧
    let s := { State.reset with dt := 2, pending := [.tickTimers, .tickTimers] }
    runUntil .hostStops 1 s = .next (after (runUntil .hostStops 1 s)) ∧ (after (runUntil .hostStops 1 s)).dt = 1 ∧
    runUntil .hostStops 5 s = .next (after (runUntil .hostStops 5 s)) ∧ (after (runUntil .hostStops 5 s)).dt = 0 :=
  ⟨rfl, rfl, by decide, rfl, by decide⟩
/-- V-F2, the end-of-run form of R290, at the reset pc and at the highest pc that is fetched. -/
theorem witness_SelfJump : (placed 0x1200 State.reset).runEnded .selfJump = true ∧
    (placed 0x1FFE (atPc 0xFFE)).runEnded .selfJump = true ∧ (placed 0x1202 State.reset).runEnded .selfJump = false ∧
    (placed 0x1200 State.reset).pending = [] := by decide
/-- A run that goes through one instruction to the `JP` to itself behind it. -/
theorem witness_FirstEnd : let s := placed 0x6A5C ((State.reset.setByte 0x202 0x12).setByte 0x203 0x02)
    runUntil .selfJump 9 s = .next (after (runUntil .selfJump 9 s)) ∧
    (after (runUntil .selfJump 9 s)).pc = 0x202 ∧ (after (runUntil .selfJump 9 s)).runEnded .selfJump = true :=
  ⟨rfl, by decide, by decide⟩

end Sys2Proof.Tests
end

/-! ### Which registers an instruction changes (10_state.md R21) -/

namespace Sys2Proof.Machine

variable (s : State)

/-- A flag write followed by a data write, the shape of the five flag instructions of the ALU. -/
theorem State.reg_setFlag_setReg_ne (x r : Reg) (flag : Bool) (b : Byte) (hx : r ≠ x) (hf : r ≠ 15) :
    ((s.setFlag flag).setReg x b).reg r = s.reg r := by
  rw [State.reg_setReg_ne _ _ _ _ hx, State.reg_setFlag, if_neg hf]

@[simp] theorem State.reg_keyTest (k : Byte) (level : Bool) (r : Reg) : (s.keyTest k level).reg r = s.reg r := by
  rcases s.keyTest_cases k level with ⟨c, e⟩ | ⟨code, a, e⟩
  · rw [e, State.reg_skipIf]
  · rw [e, State.reg_raise]

/-- A guarded instruction keeps every register that its own effect keeps: its fault changes none. -/
theorem State.reg_of_unlessFailing (failing : Option (FaultCode × Nat)) (t u : State) (r : Reg)
    (h : s.unlessFailing failing t = .next u) (ht : t.reg r = s.reg r) : u.reg r = s.reg r := by
  rcases s.unlessFailing_next failing t u h with ⟨-, rfl⟩ | ⟨code, a, -, rfl⟩
  · exact ht
  · exact s.reg_raise code a r

theorem State.reg_of_storeAtIndex (bytes : List Byte) (u : State) (r : Reg)
    (h : s.storeAtIndex bytes = .next u) : u.reg r = s.reg r :=
  s.reg_of_unlessFailing _ _ u r h (s.reg_storeBytes _ bytes r)

@[simp] theorem perform_cycle : perform .cycle s = cycle s := rfl

end Sys2Proof.Machine

namespace Sys2Proof.Proofs

open Sys2Proof.Machine Sys2Proof.Claims

/-- Settles O36, by the register effect of each instruction: none, one data write, a flag and then a data write, a block
load, or a sprite's collision flag. -/
theorem onlyNamedRegistersChange : Obligations.OnlyNamedRegistersChange := by
  intro i s t r h hdata hflag
  cases i
  case cls | jp | ldI | jpV0 | ldDtVx | ldStVx | addI | ldF => cases h; rfl
  case seImm | sneImm | seReg | sneReg => cases h; exact s.reg_skipIf _ r
  case skp | sknp => cases h; exact s.reg_keyTest _ _ r
  case ret => simp only [exec, execRet] at h; split at h <;> cases h <;> rfl
  case call => simp only [exec, execCall] at h; split at h <;> cases h <;> rfl
  case ldB | storeRegs => exact s.reg_of_storeAtIndex _ t r h
  case ldImm | addImm | ldReg | orReg | andReg | xorReg | rnd | ldVxDt =>
    cases h; exact State.reg_setReg_ne _ _ r _ (ne_of_beq_false hdata)
  case ldVxK =>
    simp only [exec, execLdVxK] at h
    split at h <;> cases h
    · exact s.reg_setReg_ne _ r _ (ne_of_beq_false hdata)
    · rfl
  case addReg | subReg | subnReg | shr | shl =>
    have notFlag : r ≠ 15 := fun e => nomatch hflag e
    cases h
    exact s.reg_setFlag_setReg_ne _ r _ _ (ne_of_beq_false hdata) notFlag
  case loadRegs x =>
    have above : ¬ r.val ≤ x.val := of_decide_eq_false hdata
    exact s.reg_of_unlessFailing _ _ t r h ((s.reg_setRegsThrough x r _).trans (if_neg above))
  case drw x y n =>
    have notFlag : r ≠ 15 := fun e => nomatch hflag e
    exact s.reg_of_unlessFailing _ _ t r h (s.reg_drawSprite_ne x y r n.val notFlag)

/-- Settles O55. -/
theorem stepPerformsTheOldestTransaction : Obligations.StepPerformsTheOldestTransaction := by
  intro s
  refine ⟨step_of_pending s, fun idle => ?_⟩
  rw [step_of_idle s idle, perform_cycle]

end Sys2Proof.Proofs

/-! ### What an instruction can do to the state (10_state.md section 1, R24 to R36) -/

namespace Sys2Proof.Machine

/-- The kinds of effect an instruction has on the state it starts from, each written as the elements it may change, so
that every element it keeps is kept by `rfl`. Tied to the model by `exec_effect`. -/
inductive Effect (s : State) : Instr → State → Prop
  /-- The fault entry of 60_exceptions.md R242. -/
  | raises (i : Instr) (code : FaultCode) (info : Nat) : Effect s i (s.raise code info)
  /-- Registers alone. -/
  | registers (i : Instr) (v : Vector Byte 16) : Effect s i { s with v := v }
  /-- pc alone: no skip, a skip, the wait of Fx0A, or a jump to an address that R24 allows. -/
  | moves (i : Instr) (pc : Word) (target : pc = s.pc ∨ pc = s.pc + 2 ∨ pc = s.pc - 2 ∨ pc.toNat ≤ 0x10FE) :
      Effect s i { s with pc := pc }
  /-- I alone. -/
  | indexes (i : Instr) (idx : Word) (writesIndex : (∃ n, i = .ldI n) ∨ (∃ x, i = .addI x) ∨ ∃ x, i = .ldF x) :
      Effect s i { s with idx := idx }
  /-- Memory alone, at addresses that all pass the write check. -/
  | stores (i : Instr) (bytes : List Byte) (writesMemory : (∃ x, i = .ldB x) ∨ ∃ x, i = .storeRegs x)
      (allowed : firstFailing (writeCheck s.cfg) (s.ea 0) bytes.length = none) :
      Effect s i { s with mem := (s.storeBytes (s.ea 0) bytes).mem }
  | draws (x : Reg) (nn : Byte) (v : Vector Byte 16) : Effect s (.rnd x nn) { s with v := v, draws := s.draws + 1 }
  | clears : Effect s .cls { s with video := 0 }
  | paints (x y : Reg) (n : Fin 16) (v : Vector Byte 16) (video : BitVec 2048) :
      Effect s (.drw x y n) { s with v := v, video := video }
  | calls (nnn : Addr) (sp : Fin 17) (h : s.sp.val < 16) (pushed : sp.val = s.sp.val + 1) :
      Effect s (.call nnn) { s with stack := s.stack.set s.sp.val s.pc h, sp := sp, pc := nnn.toWord }
  | returns (sp : Fin 17) (top : Fin 16) (popped : sp.val + 1 = s.sp.val) :
      Effect s .ret { s with sp := sp, pc := s.stack[top.val]'top.isLt }
  | setsDelay (x : Reg) : Effect s (.ldDtVx x) { s with dt := s.reg x }
  | setsSound (x : Reg) : Effect s (.ldStVx x) { s with st := s.reg x }

theorem addr_toWord_lt (a : Addr) : a.toWord.toNat < 0x1000 := by
  have := a.isLt
  simp only [Addr.toWord, BitVec.toNat_setWidth]
  omega

/-- The highest target of JP V0 is 0xFF + 0xFFF (R24). -/
theorem jpV0_target_le (b : Byte) (a : Addr) : (b.toWord + a.toWord).toNat ≤ 0x10FE := by
  have := b.isLt
  have := a.isLt
  simp only [Byte.toWord, Addr.toWord, BitVec.toNat_add, BitVec.toNat_setWidth]
  omega

section

variable {s t u : State} {i : Instr}

theorem Effect.of_skipIf (cond : Bool) : Effect s i (s.skipIf cond) := by
  cases cond
  · exact .moves i s.pc (.inl rfl)
  · exact .moves i (s.pc + 2) (.inr (.inl rfl))

theorem Effect.of_keyTest (k : Byte) (level : Bool) : Effect s i (s.keyTest k level) := by
  rcases s.keyTest_cases k level with ⟨cond, e⟩ | ⟨code, info, e⟩ <;> rw [e]
  · exact .of_skipIf cond
  · exact .raises i code info

/-- A guarded instruction raises or has its own effect, which may assume that no address fails. -/
theorem Effect.of_unlessFailing {failing : Option (FaultCode × Nat)} (h : s.unlessFailing failing u = .next t)
    (completes : failing = none → Effect s i u) : Effect s i t := by
  rcases s.unlessFailing_next failing u t h with ⟨passes, rfl⟩ | ⟨code, info, -, rfl⟩
  · exact completes passes
  · exact .raises i code info

theorem Effect.of_storeAtIndex (bytes : List Byte) (h : s.storeAtIndex bytes = .next t)
    (writesMemory : (∃ x, i = .ldB x) ∨ ∃ x, i = .storeRegs x) : Effect s i t :=
  .of_unlessFailing h fun allowed => s.storeBytes_eq (s.ea 0) bytes ▸ .stores i bytes writesMemory allowed

/-- Every answer of an instruction is one of its kinds of effect. -/
theorem exec_effect (h : exec i s = .next t) : Effect s i t := by
  cases i
  case cls => cases h; exact .clears
  case ret =>
    simp only [exec, execRet] at h
    split at h <;> cases h
    case isTrue => exact .raises _ _ _
    case isFalse used => exact .returns _ ⟨s.sp.val - 1, by omega⟩ (by simp only; omega)
  case call nnn =>
    simp only [exec, execCall] at h
    split at h <;> cases h
    case isTrue free => exact .calls nnn _ free rfl
    case isFalse => exact .raises _ _ _
  case jp nnn => cases h; exact .moves _ _ (.inr (.inr (.inr (by have := addr_toWord_lt nnn; omega))))
  case jpV0 nnn => cases h; exact .moves _ _ (.inr (.inr (.inr (jpV0_target_le (s.reg 0) nnn))))
  case seImm | sneImm | seReg | sneReg => cases h; exact .of_skipIf _
  case skp | sknp => cases h; exact .of_keyTest _ _
  case ldVxK =>
    simp only [exec, execLdVxK] at h
    split at h <;> cases h
    · exact .registers _ _
    · exact .moves _ _ (.inr (.inr (.inl rfl)))
  case ldImm | addImm | ldReg | orReg | andReg | xorReg | addReg | subReg | shr | subnReg | shl | ldVxDt =>
    cases h; exact .registers _ _
  case rnd x nn => cases h; exact .draws x nn _
  case drw x y n => exact .of_unlessFailing h fun _ => .paints x y n _ _
  case ldDtVx x => cases h; exact .setsDelay x
  case ldStVx x => cases h; exact .setsSound x
  case ldI nnn => cases h; exact .indexes _ _ (.inl ⟨nnn, rfl⟩)
  case addI x => cases h; exact .indexes _ _ (.inr (.inl ⟨x, rfl⟩))
  case ldF x => cases h; exact .indexes _ _ (.inr (.inr ⟨x, rfl⟩))
  case ldB x => exact .of_storeAtIndex _ h (.inl ⟨x, rfl⟩)
  case storeRegs x => exact .of_storeAtIndex _ h (.inr ⟨x, rfl⟩)
  case loadRegs => exact .of_unlessFailing h fun _ => .registers _ _

/-! ### What no instruction changes, and the bytes below 0x200 -/

theorem Effect.key_eq (e : Effect s i t) : t.key = s.key := by cases e <;> rfl

theorem Effect.cfg_eq (e : Effect s i t) : t.cfg = s.cfg := by cases e <;> rfl

/-- Bytes that pass the write check under the protection all lie at 0x200 or above (20_memory.md R53). -/
theorem State.byteAt_storeBytes_protected {base a : Nat} {bytes : List Byte} (protects : s.cfg.protectLowMemory = true)
    (allowed : firstFailing (writeCheck s.cfg) base bytes.length = none) (low : a < 0x200) :
    (s.storeBytes base bytes).byteAt a = s.byteAt a := by
  refine s.byteAt_storeBytes_outside base bytes a ?_
  cases bytes with
  | nil => exact Nat.lt_or_ge a base
  | cons b bs =>
    have first := (firstFailing_eq_none _ _ _).1 allowed 0 (Nat.zero_lt_succ _)
    have := ((writeCheck_eq_none _ _).1 first).2 protects
    omega

/-- R32: the protection keeps every byte below 0x200 from the instructions. -/
theorem Effect.byteAt_low (e : Effect s i t) (protects : s.cfg.protectLowMemory = true) {a : Nat} (low : a < 0x200) :
    t.byteAt a = s.byteAt a := by
  cases e with
  | stores _ bytes _ allowed => rw [← s.storeBytes_eq]; exact State.byteAt_storeBytes_protected protects allowed low
  | _ => rfl

end

/-! ### What a Cycle and the host's transactions can answer -/

section

variable {s t : State}

theorem finishCycle_next {o : Result} (h : finishCycle o = .next t) : ∃ u, o = .next u ∧ t = u.endCycle := by
  cases o with
  | next u => cases h; exact ⟨u, rfl, rfl⟩
  | fault r => cases h
  | refused r => cases h

/-- What a Cycle that answers a next state has done, by `cycle_cases`. -/
theorem cycle_next (h : cycle s = .next t) :
    (∃ f, s.fault = some f ∧ t = s.refault f) ∨
    (∃ info, t = s.fetchFault .addressOutOfRange info) ∨
    (s.fault = none ∧ s.pc.toNat ≤ 0xFFE ∧ ∃ w, t = s.unknownWord w) ∨
    (s.fault = none ∧ s.pc.toNat ≤ 0xFFE ∧ ∃ i u, Effect s.advance i u ∧ t = u.endCycle) := by
  rcases cycle_cases s with ⟨f, hf, e⟩ | ⟨-, -, e⟩ | ⟨hf, hpc, -, e⟩ | ⟨hf, hpc, i, -, e⟩ <;> rw [e] at h
  · cases h; exact .inl ⟨f, hf, rfl⟩
  · cases h; exact .inr (.inl ⟨_, rfl⟩)
  · cases h; exact .inr (.inr (.inl ⟨hf, hpc, _, rfl⟩))
  · obtain ⟨u, hu, rfl⟩ := finishCycle_next h
    exact .inr (.inr (.inr ⟨hf, hpc, i, u, exec_effect hu, rfl⟩))

theorem txnTickTimers_next (h : txnTickTimers s = .next t) : t = { s.tick with result := .noResult } := by
  unfold txnTickTimers at h
  split at h <;> cases h
  rfl

/-- LoadROM reports an error and changes nothing else, or stores the image from 0x200 up (R283). -/
theorem txnLoadRom_next {readable : Bool} {bytes : List Byte} (h : txnLoadRom readable bytes s = .next t) :
    (∃ r, t = { s with result := r }) ∨ t = { s with mem := (s.storeBytes 0x200 bytes).mem, result := .ok } := by
  unfold txnLoadRom at h
  split at h
  · cases h; exact .inl ⟨_, rfl⟩
  · split at h <;> cases h
    · exact .inl ⟨_, rfl⟩
    · rw [s.storeBytes_eq]; exact .inr rfl

end

section

variable (s : State)

@[simp] theorem State.endCycle_pc : s.endCycle.pc = s.pc := by
  unfold State.endCycle; split <;> simp
@[simp] theorem State.endCycle_stack : s.endCycle.stack = s.stack := by
  unfold State.endCycle; split <;> simp
@[simp] theorem State.endCycle_key : s.endCycle.key = s.key := by
  unfold State.endCycle; split <;> simp
@[simp] theorem State.endCycle_mem : s.endCycle.mem = s.mem := by
  unfold State.endCycle; split <;> simp
@[simp] theorem State.endCycle_fault : s.endCycle.fault = s.fault := by
  unfold State.endCycle; split <;> simp
@[simp] theorem State.endCycle_cfg : s.endCycle.cfg = s.cfg := by
  unfold State.endCycle; split <;> simp

end

/-! ### What Initialize leaves in memory -/

section

variable (c : Config) {a : Nat}

theorem resetByte_of_lt (h : a < 80) : resetByte c a = c.font[a] := dif_pos h

theorem resetByte_of_ge (h : 80 ≤ a) : resetByte c a = 0 := dif_neg (Nat.not_lt.2 h)

end

/-! ### The invariant of the reachable states -/

section

variable {s t : State} {i : Instr}

/-- The invariant speaks of five elements of the state. -/
theorem State.Inv.of_eq (hs : s.Inv) (cfg : t.cfg = s.cfg) (mem : t.mem = s.mem) (pc : t.pc = s.pc)
    (stack : t.stack = s.stack) (fault : t.fault = s.fault) : t.Inv where
  memCanonical := by simpa only [State.memWf, cfg, mem] using hs.memCanonical
  pcBound := by simpa only [pc] using hs.pcBound
  stackBound := by simpa only [stack] using hs.stackBound
  lowMemory := by simpa only [State.byteAt, cfg, mem] using hs.lowMemory
  latchedPc := by simpa only [pc, fault] using hs.latchedPc

theorem State.resetWith_inv (c : Config) : (State.resetWith c).Inv where
  memCanonical := Memory.wf_nil c
  pcBound := by simp only [State.resetWith]; decide
  stackBound k := by simp [State.resetWith]
  lowMemory _ a _ := Memory.read_nil c a
  latchedPc f h := nomatch h

/-- The fetch advance of an executed word: pc was at most 0xFFE. -/
theorem State.Inv.advance (hs : s.Inv) (hpc : s.pc.toNat ≤ 0xFFE) (hf : s.fault = none) : s.advance.Inv where
  memCanonical := hs.memCanonical
  pcBound := by simp only [State.advance_pc, BitVec.toNat_add, BitVec.reduceToNat]; omega
  stackBound := hs.stackBound
  lowMemory := hs.lowMemory
  latchedPc f h := nomatch hf.symm.trans h

theorem Effect.memWf (e : Effect s i t) (hs : s.memWf) : t.memWf := by
  cases e with
  | stores _ bytes => rw [← s.storeBytes_eq]; exact s.storeBytes_memWf (s.ea 0) bytes hs
  | _ => exact hs

/-- R24: from a word that was fetched, whose end is at most 0x1000, every effect leaves pc in bounds. -/
theorem Effect.pcBound (e : Effect s i t) (hs : s.Inv) (lo : 2 ≤ s.pc.toNat) (hi : s.pc.toNat ≤ 0x1000) :
    t.pc.toNat ≤ 0x10FE := by
  have back : (s.pc - 2).toNat ≤ 0x10FE := by rw [BitVec.toNat_sub_of_le (by bv_omega)]; omega
  cases e with
  | raises => exact back
  | moves _ pc target =>
    rcases target with rfl | rfl | rfl | jump
    · exact hs.pcBound
    · simp only [BitVec.toNat_add, BitVec.reduceToNat]; omega
    · exact back
    · exact jump
  | calls nnn => have := addr_toWord_lt nnn; simp only; omega
  | returns _ top => have := hs.stackBound top; simp only; omega
  | _ => exact hs.pcBound

theorem Effect.stackBound (e : Effect s i t) (hs : s.Inv) (hi : s.pc.toNat ≤ 0x1000) (k : Fin 16) :
    (t.stack[k.val]'k.isLt).toNat ≤ 0x1000 := by
  cases e with
  | calls nnn sp h =>
    simp only [Vector.getElem_set]
    split
    · exact hi
    · exact hs.stackBound k
  | _ => exact hs.stackBound k

/-- R242: a fault raised leaves pc at the record's address. -/
theorem Effect.latchedPc (e : Effect s i t) (hf : s.fault = none) (f : FaultRecord) (h : t.fault = some f) :
    t.pc = f.addr := by
  cases e with
  | raises => cases h; rfl
  | _ => exact nomatch hf.symm.trans h

/-- An instruction keeps the invariant, from a state whose pc is two past a word that was fetched. -/
theorem Effect.inv (e : Effect s i t) (hs : s.Inv) (hf : s.fault = none) (lo : 2 ≤ s.pc.toNat)
    (hi : s.pc.toNat ≤ 0x1000) : t.Inv where
  memCanonical := e.memWf hs.memCanonical
  pcBound := e.pcBound hs lo hi
  stackBound := e.stackBound hs hi
  lowMemory protects a low := by
    rw [e.cfg_eq] at protects ⊢
    exact (e.byteAt_low protects low).trans (hs.lowMemory protects a low)
  latchedPc := e.latchedPc hf

theorem State.Inv.fetchFault (hs : s.Inv) (code : FaultCode) (info : Nat) : (s.fetchFault code info).Inv where
  memCanonical := hs.memCanonical
  pcBound := hs.pcBound
  stackBound := hs.stackBound
  lowMemory := hs.lowMemory
  latchedPc f h := by cases h; rfl

theorem State.Inv.cycle (hs : s.Inv) (h : cycle s = .next t) : t.Inv := by
  rcases cycle_next h with ⟨f, -, rfl⟩ | ⟨info, rfl⟩ | ⟨hf, hpc, w, rfl⟩ | ⟨hf, hpc, i, u, e, rfl⟩
  · exact hs.of_eq rfl rfl rfl rfl rfl
  · exact hs.fetchFault _ info
  · exact (hs.advance hpc hf).of_eq s.advance.coupledTick_cfg s.advance.coupledTick_mem s.advance.coupledTick_pc
      s.advance.coupledTick_stack s.advance.coupledTick_fault
  · have past : s.advance.pc.toNat = s.pc.toNat + 2 := by
      simp only [State.advance_pc, BitVec.toNat_add, BitVec.reduceToNat]; omega
    have hu : u.Inv := e.inv (hs.advance hpc hf) hf (by omega) (by omega)
    exact hu.of_eq u.endCycle_cfg u.endCycle_mem u.endCycle_pc u.endCycle_stack u.endCycle_fault

/-- LoadROM's image starts at 0x200, so the bytes below keep their values (R32). -/
theorem txnLoadRom_byteAt_low {readable : Bool} {bytes : List Byte} (h : txnLoadRom readable bytes s = .next t) {a : Nat}
    (low : a < 0x200) : t.byteAt a = s.byteAt a := by
  rcases txnLoadRom_next h with ⟨r, rfl⟩ | rfl
  · rfl
  · simpa only [State.byteAt, State.storeBytes_cfg] using s.byteAt_storeBytes_outside 0x200 bytes a (.inl low)

theorem State.Inv.loadRom (hs : s.Inv) {readable : Bool} {bytes : List Byte}
    (h : txnLoadRom readable bytes s = .next t) : t.Inv := by
  have low {a : Nat} (ha : a < 0x200) := txnLoadRom_byteAt_low h ha
  rcases txnLoadRom_next h with ⟨r, rfl⟩ | rfl
  · exact hs.of_eq rfl rfl rfl rfl rfl
  · exact {
      memCanonical := by
        simpa only [State.memWf, State.storeBytes_cfg] using s.storeBytes_memWf 0x200 bytes hs.memCanonical
      pcBound := hs.pcBound
      stackBound := hs.stackBound
      lowMemory := fun protects a ha => (low ha).trans (hs.lowMemory protects a ha)
      latchedPc := hs.latchedPc }

theorem State.Inv.perform (hs : s.Inv) {x : Txn} (h : perform x s = .next t) : t.Inv := by
  cases x with
  | cycle => exact hs.cycle h
  | tickTimers => obtain rfl := txnTickTimers_next h; exact hs.of_eq rfl rfl rfl rfl rfl
  | initBlock => cases h; exact (State.resetWith_inv s.cfg).of_eq rfl rfl rfl rfl rfl
  | loadRom => exact hs.loadRom h
  | setKeyState | getVideo | readTimers | readFault => cases h; exact hs.of_eq rfl rfl rfl rfl rfl

/-! ### The keys (R29) -/

theorem cycle_key (h : cycle s = .next t) : t.key = s.key := by
  rcases cycle_next h with ⟨f, -, rfl⟩ | ⟨info, rfl⟩ | ⟨-, -, w, rfl⟩ | ⟨-, -, i, u, e, rfl⟩
  · rfl
  · rfl
  · exact s.advance.coupledTick_key
  · exact u.endCycle_key.trans e.key_eq

/-- Every transaction but Initialize and SetKeyState keeps the keys. -/
theorem perform_key {x : Txn} (h : perform x s = .next t) (notInit : x ≠ .initBlock)
    (notSet : ∀ k pressed, x ≠ .setKeyState k pressed) : t.key = s.key := by
  cases x with
  | cycle => exact cycle_key h
  | tickTimers => obtain rfl := txnTickTimers_next h; rfl
  | initBlock => exact absurd rfl notInit
  | setKeyState k pressed => exact absurd rfl (notSet k pressed)
  | loadRom =>
    rcases txnLoadRom_next h with ⟨r, rfl⟩ | rfl <;> rfl
  | getVideo | readTimers | readFault => cases h; rfl

end

end Sys2Proof.Machine

namespace Sys2Proof.Proofs

open Sys2Proof.Machine Sys2Proof.Claims

/-- Settles O14: each transaction keeps the invariant, and taking one from the queue changes nothing it speaks of. -/
theorem stepKeepsTheInvariant : Obligations.StepKeepsTheInvariant := by
  intro s t hs h
  cases hp : s.pending with
  | nil =>
    rw [step_of_idle s hp] at h
    exact hs.cycle h
  | cons x rest =>
    rw [step_of_pending s x rest hp] at h
    exact (hs.of_eq (t := { s with pending := rest }) rfl rfl rfl rfl rfl).perform h

/-- Settles O23, by the write check for the instructions and by LoadROM's base address. -/
theorem lowMemoryIsKept : Obligations.LowMemoryIsKept := by
  refine ⟨fun i s t protects h a low => (exec_effect h).byteAt_low protects low,
    fun s t readable bytes h a low => txnLoadRom_byteAt_low h low, fun s t k pressed x hx h => ?_, fun s t h a ha => ?_⟩
  · simp only [List.mem_cons, List.not_mem_nil, or_false] at hx
    rcases hx with rfl | rfl | rfl | rfl | rfl
    · obtain rfl := txnTickTimers_next h; exact fun a => rfl
    all_goals cases h; exact fun a => rfl
  · cases h
    exact resetByte_of_lt s.cfg ha

/-- Settles O47. -/
theorem onlyClearAndDrawWriteTheFramebuffer : Obligations.OnlyClearAndDrawWriteTheFramebuffer := by
  intro i s t h notCls notDrw
  cases exec_effect h with
  | clears => exact absurd rfl notCls
  | paints x y n => exact absurd rfl (notDrw x y n)
  | _ => rfl

/-- Settles O52. -/
theorem onlyCallAndReturnMoveTheStack : Obligations.OnlyCallAndReturnMoveTheStack := by
  intro i s t h
  cases exec_effect h with
  | calls nnn sp _ pushed =>
    exact ⟨fun notCall => absurd rfl (notCall nnn), fun notCall => absurd rfl (notCall nnn), .inr (.inl pushed)⟩
  | returns sp _ popped => exact ⟨fun _ => rfl, fun _ notRet => absurd rfl notRet, .inr (.inr popped)⟩
  | _ => exact ⟨fun _ => rfl, fun _ _ => rfl, .inl rfl⟩

/-- Settles O53. -/
theorem onlyTimerLoadsWriteTheTimers : Obligations.OnlyTimerLoadsWriteTheTimers := by
  intro i s t h
  have e := exec_effect h
  refine ⟨fun notDt => ?_, fun notSt => ?_, fun notRnd => ?_, e.key_eq, e.cfg_eq, ?_⟩
  · cases e with
    | setsDelay x => exact absurd rfl (notDt x)
    | _ => rfl
  · cases e with
    | setsSound x => exact absurd rfl (notSt x)
    | _ => rfl
  · cases e with
    | draws x nn => exact absurd rfl (notRnd x nn)
    | _ => rfl
  · cases e <;> exact ⟨rfl, rfl, rfl⟩

/-- Settles O54: with nothing queued the step is a Cycle; of the queued transactions only the two named change a key. -/
theorem onlyTheHostChangesTheKeys : Obligations.OnlyTheHostChangesTheKeys := by
  intro s t h changed
  cases hp : s.pending with
  | nil =>
    rw [step_of_idle s hp] at h
    exact absurd (cycle_key h) changed
  | cons x rest =>
    rw [step_of_pending s x rest hp] at h
    by_contra others
    simp only [List.cons.injEq, not_or, not_exists, not_and] at others
    obtain ⟨notInit, notSet⟩ := others
    have kept := perform_key h (fun e => notInit rest e rfl) fun k pressed e => notSet k pressed rest e rfl
    exact changed kept

/-- Settles O19. -/
theorem resetHoldsTheSpecsValues : Obligations.ResetHoldsTheSpecsValues := by
  have reg (x : Reg) : State.reset.reg x = 0 := Vector.getElem_replicate _
  have stack (k : Nat) (h : k < 16) : State.reset.stack[k] = 0 := Vector.getElem_replicate _
  have key (k : Nat) (h : k < 16) : State.reset.key[k] = false := Vector.getElem_replicate _
  have pixel (x y : Nat) (_ : x < 64) (_ : y < 32) : State.reset.pixel x y = false := BitVec.getLsbD_zero
  have zeroes (a : Nat) (h : 80 ≤ a) (_ : a < 0x1000) : State.reset.byteAt a = 0 := resetByte_of_ge defaultConfig h
  have font (a : Nat) (h : a < 80) : State.reset.byteAt a = State.reset.cfg.font[a] := resetByte_of_lt defaultConfig h
  have glyphBytes : State.reset.cfg.font.toList = glyphs.flatten := by decide
  exact ⟨reg, rfl, rfl, stack, rfl, rfl, rfl, key, pixel, rfl, zeroes, font, rfl, rfl, rfl, glyphBytes, rfl⟩

end Sys2Proof.Proofs

/-! ### The memory moves from I, and the address a memory fault reports (20_memory.md R53, R56, R59) -/

namespace Sys2Proof.Machine

open Sys2Proof.Claims

/-- The failing address, by the addresses below it: `firstFailing_eq_some` without the offsets. -/
theorem firstFailing_lowest {check : Nat → Option FaultCode} {base count a : Nat} {code : FaultCode}
    (h : firstFailing check base count = some (code, a)) :
    base ≤ a ∧ a < base + count ∧ check a = some code ∧ ∀ b, base ≤ b → b < a → check b = none := by
  obtain ⟨k, hk, rfl, fails, passes⟩ := (firstFailing_eq_some _ _ _ _ _).1 h
  refine ⟨Nat.le_add_right base k, Nat.add_lt_add_left hk base, fails, fun b lower upper => ?_⟩
  obtain ⟨j, rfl⟩ := Nat.exists_eq_add_of_le lower
  exact passes j (Nat.lt_of_add_lt_add_left upper)

/-- What the address of a memory fault says of the bytes from I on. -/
structure LowestFailing (s : State) (code : FaultCode) (a : Nat) : Prop where
  fromIndex : s.idx.toNat ≤ a
  within : a ≤ s.idx.toNat + 15
  outOfRange : code = .addressOutOfRange → 0x1000 ≤ a ∧ ∀ b, s.idx.toNat ≤ b → b < a → b < 0x1000
  protectedWrite : code = .protectedWrite → a = s.idx.toNat ∧ a < 0x200 ∧ s.cfg.protectLowMemory = true

/-- What an instruction does to the latch: it keeps it, raises a memory fault at the lowest failing address, or raises
another fault. Tied to the model by `exec_latchEffect`. -/
inductive LatchEffect (s : State) : State → Prop
  | keeps {t : State} (kept : t.fault = s.fault) : LatchEffect s t
  | memoryFault (code : FaultCode) (a : Nat) (lowest : LowestFailing s code a) : LatchEffect s (s.raise code a)
  | otherFault (code : FaultCode) (info : Nat) (notRange : code ≠ .addressOutOfRange)
      (notProtected : code ≠ .protectedWrite) : LatchEffect s (s.raise code info)

section

variable {s t u : State} {i : Instr} {count a : Nat} {code : FaultCode}

/-- A read that fails fails out of range (R52). -/
theorem LowestFailing.of_read (few : count ≤ 16) (h : firstFailing readCheck (s.ea 0) count = some (code, a)) :
    LowestFailing s code a := by
  obtain ⟨lower, upper, fails, passes⟩ := firstFailing_lowest h
  obtain ⟨high, rfl⟩ := (readCheck_eq_some _ _).1 fails
  exact {
    fromIndex := lower
    within := Nat.le_of_lt_succ (Nat.lt_of_lt_of_le upper (Nat.add_le_add_left few _))
    outOfRange := fun _ => ⟨high, fun b hb below => (readCheck_eq_none b).1 (passes b hb below)⟩
    protectedWrite := nofun }

/-- A write that fails is out of range or below 0x200 (R53). In the second case it is the first one, since a byte that
passes under the protection has only bytes at 0x200 or above after it. -/
theorem LowestFailing.of_write (few : count ≤ 16)
    (h : firstFailing (writeCheck s.cfg) (s.ea 0) count = some (code, a)) : LowestFailing s code a := by
  obtain ⟨lower, upper, fails, passes⟩ := firstFailing_lowest h
  have passed (b : Nat) (hb : s.idx.toNat ≤ b) (below : b < a) := (writeCheck_eq_none _ _).1 (passes b hb below)
  have within : a ≤ s.idx.toNat + 15 := Nat.le_of_lt_succ (Nat.lt_of_lt_of_le upper (Nat.add_le_add_left few _))
  rcases (writeCheck_eq_some _ _ _).1 fails with ⟨high, rfl⟩ | ⟨low, protects, rfl⟩
  · exact ⟨lower, within, fun _ => ⟨high, fun b hb below => (passed b hb below).1⟩, nofun⟩
  · have atIndex : a = s.idx.toNat := by
      by_contra later
      have below : s.idx.toNat < a := Nat.lt_of_le_of_ne lower (Ne.symm later)
      have := (passed s.idx.toNat (Nat.le_refl _) below).2 protects
      omega
    exact ⟨lower, within, nofun, fun _ => ⟨atIndex, low, protects⟩⟩

/-! ### The latch after an instruction -/

theorem LatchEffect.of_unlessFailing {failing : Option (FaultCode × Nat)} (h : s.unlessFailing failing u = .next t)
    (kept : u.fault = s.fault) (lowest : ∀ code a, failing = some (code, a) → LowestFailing s code a) :
    LatchEffect s t := by
  rcases s.unlessFailing_next failing u t h with ⟨-, rfl⟩ | ⟨code, a, fails, rfl⟩
  · exact .keeps kept
  · exact .memoryFault code a (lowest code a fails)

theorem LatchEffect.of_storeAtIndex {bytes : List Byte} (few : bytes.length ≤ 16)
    (h : s.storeAtIndex bytes = .next t) : LatchEffect s t :=
  .of_unlessFailing h (s.storeBytes_fault _ bytes) fun _ _ => .of_write few

theorem LatchEffect.of_keyTest (k : Byte) (level : Bool) : LatchEffect s (s.keyTest k level) := by
  rcases Nat.lt_or_ge k.toNat 16 with isKey | noKey
  · rw [s.keyTest_of_lt k level isKey]
    exact .keeps (s.skipIf_fault _)
  · rw [s.keyTest_of_ge k level noKey]
    exact .otherFault _ _ nofun nofun

@[simp] theorem length_bcdDigits (b : Byte) : (bcdDigits b).length = 3 := rfl

@[simp] theorem State.length_regsThrough (s : State) (x : Reg) : (s.regsThrough x).length = x.val + 1 := by
  simp only [State.regsThrough, List.length_take, Vector.length_toList]
  omega

/-- Every instruction's effect on the latch: the four that touch memory raise memory faults, CALL, RET and the key tests
other ones. -/
theorem exec_latchEffect (h : exec i s = .next t) : LatchEffect s t := by
  cases i
  case drw x y n => exact .of_unlessFailing h (s.drawSprite_fault x y n) fun _ _ => .of_read n.isLt.le
  case loadRegs x => exact .of_unlessFailing h (s.setRegsThrough_fault x _) fun _ _ => .of_read x.isLt
  case ldB x => exact .of_storeAtIndex ((length_bcdDigits (s.reg x)).trans_le (by decide)) h
  case storeRegs x => exact .of_storeAtIndex ((s.length_regsThrough x).trans_le x.isLt) h
  case skp | sknp => cases h; exact .of_keyTest _ _
  case ret =>
    simp only [exec, execRet] at h
    split at h <;> cases h
    case isTrue => exact .otherFault _ _ nofun nofun
    case isFalse => exact .keeps rfl
  case call =>
    simp only [exec, execCall] at h
    split at h <;> cases h
    case isTrue => exact .keeps rfl
    case isFalse => exact .otherFault _ _ nofun nofun
  case ldVxK =>
    simp only [exec, execLdVxK] at h
    split at h <;> cases h <;> exact .keeps rfl
  case seImm | sneImm | seReg | sneReg => cases h; exact .keeps (s.skipIf_fault _)
  all_goals cases h; exact .keeps rfl

/-! ### A register block stored and loaded -/

/-- Writes that are all allowed store the bytes from I on. -/
theorem State.storeAtIndex_of_allowed {bytes : List Byte} (allowed : WritesAllowed s bytes.length) :
    s.storeAtIndex bytes = .next (s.storeBytes (s.ea 0) bytes) := by
  obtain ⟨high, low⟩ := allowed
  have passes : firstFailing (writeCheck s.cfg) (s.ea 0) bytes.length = none := by
    refine (firstFailing_eq_none _ _ _).2 fun k hk => (writeCheck_eq_none _ _).2 ⟨?_, fun protects => ?_⟩
    · simp only [State.ea]; omega
    · exact (low protects).trans (Nat.le_add_right _ k)
  rw [State.storeAtIndex, passes]
  rfl

theorem exec_storeRegs_of_allowed {x : Reg} (allowed : WritesAllowed s (x.val + 1)) :
    exec (.storeRegs x) s = .next (s.storeBytes (s.ea 0) (s.regsThrough x)) :=
  s.storeAtIndex_of_allowed ((s.length_regsThrough x).symm ▸ allowed)

theorem exec_loadRegs_of_readable {x : Reg} (readable : s.idx.toNat + (x.val + 1) ≤ 0x1000) :
    exec (.loadRegs x) s = .next (s.setRegsThrough x (s.ea 0)) := by
  have passes : firstFailing readCheck (s.ea 0) (x.val + 1) = none := by
    refine (firstFailing_eq_none _ _ _).2 fun k hk => (readCheck_eq_none _).2 ?_
    simp only [State.ea]
    omega
  simp only [exec, execLoadRegs, passes]
  rfl

/-- Byte k of a stored register block is Vk. -/
theorem State.byteAt_storeBytes_regsThrough {base : Nat} {x k : Reg} (hm : s.memWf) (inBlock : k.val ≤ x.val)
    (inMemory : base + k.val < 4096) : (s.storeBytes base (s.regsThrough x)).byteAt (base + k.val) = s.reg k := by
  have hk : k.val < (s.regsThrough x).length := by rw [s.length_regsThrough]; exact Nat.lt_succ_of_le inBlock
  rw [s.byteAt_storeBytes_inside base _ k.val hk hm inMemory]
  simp [State.regsThrough, State.reg]

/-- A byte read depends on the memory and the parameters alone. -/
theorem State.byteAt_congr (mem : u.mem = t.mem) (cfg : u.cfg = t.cfg) (a : Nat) : u.byteAt a = t.byteAt a := by
  simp only [State.byteAt, mem, cfg]

end

end Sys2Proof.Machine

namespace Sys2Proof.Proofs

open Sys2Proof.Machine Sys2Proof.Claims

/-- Settles O41: the load reads the bytes the store wrote, each of them a register's value. -/
theorem loadAfterStoreRestoresTheRegisters : Obligations.LoadAfterStoreRestoresTheRegisters := by
  intro x s t u canonical allowed stored mem cfg idx
  rw [exec_storeRegs_of_allowed allowed] at stored
  cases stored
  obtain ⟨inMemory, -⟩ := allowed
  rw [State.storeBytes_idx] at idx
  refine ⟨_, exec_loadRegs_of_readable (idx.symm ▸ inMemory), fun k inBlock => ?_⟩
  calc (u.setRegsThrough x (u.ea 0)).reg k
      = u.byteAt (s.ea 0 + k.val) := by simp only [State.reg_setRegsThrough, inBlock, if_true, State.ea, idx]
    _ = (s.storeBytes (s.ea 0) (s.regsThrough x)).byteAt (s.ea 0 + k.val) := State.byteAt_congr mem cfg _
    _ = s.reg k := State.byteAt_storeBytes_regsThrough canonical inBlock (by simp only [State.ea]; omega)

/-- Settles O42, by the latch effect of the instruction: only a memory fault carries one of the two codes. -/
theorem lowestFailingAddressIsReported : Obligations.LowestFailingAddressIsReported := by
  intro i s t f clear h latched memoryCode
  cases exec_latchEffect h with
  | keeps kept => exact nomatch (kept.trans clear).symm.trans latched
  | memoryFault code a lowest =>
    cases latched
    exact ⟨a, lowest.fromIndex, lowest.within, rfl, lowest.outOfRange, lowest.protectedWrite, rfl⟩
  | otherFault code info notRange notProtected =>
    cases latched
    exact absurd memoryCode (not_or.2 ⟨notRange, notProtected⟩)

/-- Settles O43, by the kinds of effect: one stores bytes, one sets I, and each names its instructions. -/
theorem onlyNamedInstructionsWriteMemoryAndI : Obligations.OnlyNamedInstructionsWriteMemoryAndI := by
  intro i s t h
  have e := exec_effect h
  refine ⟨fun notDigits notBlock => ?_, fun notLoad notAdd notGlyph => ?_⟩
  · cases e with
    | stores _ bytes writesMemory =>
      rcases writesMemory with ⟨x, rfl⟩ | ⟨x, rfl⟩
      · exact absurd rfl (notDigits x)
      · exact absurd rfl (notBlock x)
    | _ => exact ⟨fun _ => rfl, rfl⟩
  · cases e with
    | indexes _ idx writesIndex =>
      rcases writesIndex with ⟨n, rfl⟩ | ⟨x, rfl⟩ | ⟨x, rfl⟩
      · exact absurd rfl (notLoad n)
      · exact absurd rfl (notAdd x)
      · exact absurd rfl (notGlyph x)
    | _ => rfl

end Sys2Proof.Proofs

/-! ### The fields of the four formats' words (30_encoding.md R84, R88) -/

namespace Sys2Proof

section

variable {op low : Nat} (x y : Reg) (nn : Byte) (nnn : Addr)

@[simp] theorem opField_formatNNN (h : op < 16) : opField (formatNNN op nnn) = op := by
  simp only [opField, formatNNN, bitField, BitVec.toNat_ofNat]; omega

@[simp] theorem nnnField_formatNNN : nnnField (formatNNN op nnn) = nnn := by
  apply BitVec.eq_of_toNat_eq
  simp only [nnnField, formatNNN, bitField, BitVec.toNat_ofNat]; omega

@[simp] theorem opField_formatXNN (h : op < 16) : opField (formatXNN op x nn) = op := by
  simp only [opField, formatXNN, bitField, BitVec.toNat_ofNat]; omega

@[simp] theorem xField_formatXNN : xField (formatXNN op x nn) = x := by
  ext
  simp only [xField, formatXNN, bitField, BitVec.toNat_ofNat]; omega

@[simp] theorem nnField_formatXNN : nnField (formatXNN op x nn) = nn := by
  apply BitVec.eq_of_toNat_eq
  simp only [nnField, formatXNN, bitField, BitVec.toNat_ofNat]; omega

@[simp] theorem opField_formatX (h : op < 16) (hlow : low < 256) : opField (formatX op x low) = op := by
  simp only [opField, formatX, bitField, BitVec.toNat_ofNat]; omega

@[simp] theorem xField_formatX (hlow : low < 256) : xField (formatX op x low) = x := by
  ext
  simp only [xField, formatX, bitField, BitVec.toNat_ofNat]; omega

@[simp] theorem lowByte_formatX (hlow : low < 256) : bitField (formatX op x low) 0 8 = low := by
  simp only [formatX, bitField, BitVec.toNat_ofNat]; omega

@[simp] theorem opField_nibbles (h : op < 16) (hlow : low < 16) : opField (nibbles op x y low) = op := by
  simp only [opField, nibbles, bitField, BitVec.toNat_ofNat]; omega

@[simp] theorem xField_nibbles (hlow : low < 16) : xField (nibbles op x y low) = x := by
  ext
  simp only [xField, nibbles, bitField, BitVec.toNat_ofNat]; omega

@[simp] theorem yField_nibbles (hlow : low < 16) : yField (nibbles op x y low) = y := by
  ext
  simp only [yField, nibbles, bitField, BitVec.toNat_ofNat]; omega

@[simp] theorem nField_nibbles : nField (nibbles op x y low) = Fin.ofNat 16 low := by
  ext
  simp only [nField, nibbles, bitField, BitVec.toNat_ofNat, Fin.ofNat]; omega

end

/-! ### A word written by its own fields -/

section

variable {w : Word} {op low : Nat}

theorem formatNNN_of_fields (hop : opField w = op) : formatNNN op (nnnField w) = w := by
  subst hop
  apply BitVec.eq_of_toNat_eq
  simp only [formatNNN, opField, nnnField, bitField, BitVec.toNat_ofNat]; omega

theorem formatXNN_of_fields (hop : opField w = op) : formatXNN op (xField w) (nnField w) = w := by
  subst hop
  apply BitVec.eq_of_toNat_eq
  simp only [formatXNN, opField, xField, nnField, bitField, BitVec.toNat_ofNat]; omega

theorem formatX_of_fields (hop : opField w = op) (hlow : bitField w 0 8 = low) : formatX op (xField w) low = w := by
  subst hop hlow
  apply BitVec.eq_of_toNat_eq
  simp only [formatX, opField, xField, bitField, BitVec.toNat_ofNat]; omega

theorem nibbles_of_fields (hop : opField w = op) (hlow : (nField w).val = low) :
    nibbles op (xField w) (yField w) low = w := by
  subst hop hlow
  apply BitVec.eq_of_toNat_eq
  simp only [nibbles, opField, xField, yField, nField, bitField, BitVec.toNat_ofNat]; omega

end

/-! ### Encoding, then decoding -/

/-- In every format the fields read back the operands, and the family's decoder reads its last nibble or byte. -/
theorem decode_encode (i : Instr) : decode (encode i) = .ok i := by
  cases i
  case cls | ret => rfl
  case jp | call | ldI | jpV0 | seImm | sneImm | ldImm | addImm | rnd | drw => simp [encode, decode]
  case seReg => simp [encode, decode, decodeFamily5]
  case sneReg => simp [encode, decode, decodeFamily9]
  case ldReg | orReg | andReg | xorReg | addReg | subReg | shr | subnReg | shl => simp [encode, decode, decodeFamily8]
  case skp | sknp => simp [encode, decode, decodeFamilyE]
  all_goals simp [encode, decode, decodeFamilyF]

/-! ### Decoding, then encoding -/

/-- What a decoder may answer on a word: an instruction whose encoding is that word, or the rejection that names it
(R90). Tied to the model by `decode_faithful`. -/
def FaithfulAnswer (w : Word) : Except DecodeError Instr → Prop
  | .ok i => encode i = w
  | .error e => e = .unknownOpcode w

section

variable {w : Word}

theorem decodeFamily0_faithful : FaithfulAnswer w (decodeFamily0 w) := by
  unfold decodeFamily0
  split
  case h_1 word | h_2 word => exact BitVec.eq_of_toNat_eq word.symm
  case h_3 => rfl

theorem decodeFamily5_faithful (hop : opField w = 5) : FaithfulAnswer w (decodeFamily5 w) := by
  unfold decodeFamily5
  split
  case h_1 low => exact nibbles_of_fields hop low
  case h_2 => rfl

theorem decodeFamily8_faithful (hop : opField w = 8) : FaithfulAnswer w (decodeFamily8 w) := by
  unfold decodeFamily8
  split
  case h_10 => rfl
  all_goals next low => exact nibbles_of_fields hop low

theorem decodeFamily9_faithful (hop : opField w = 9) : FaithfulAnswer w (decodeFamily9 w) := by
  unfold decodeFamily9
  split
  case h_1 low => exact nibbles_of_fields hop low
  case h_2 => rfl

theorem decodeFamilyE_faithful (hop : opField w = 14) : FaithfulAnswer w (decodeFamilyE w) := by
  unfold decodeFamilyE
  split
  case h_3 => rfl
  all_goals next low => exact formatX_of_fields hop low

theorem decodeFamilyF_faithful (hop : opField w = 15) : FaithfulAnswer w (decodeFamilyF w) := by
  unfold decodeFamilyF
  split
  case h_10 => rfl
  all_goals next low => exact formatX_of_fields hop low

/-- Every answer of the decoder is faithful, by the families of R86: case `h_k` is family k - 1, `h_17` is no family. -/
theorem decode_faithful (w : Word) : FaithfulAnswer w (decode w) := by
  unfold decode
  split
  case h_1 => exact decodeFamily0_faithful
  case h_6 op => exact decodeFamily5_faithful op
  case h_9 op => exact decodeFamily8_faithful op
  case h_10 op => exact decodeFamily9_faithful op
  case h_15 op => exact decodeFamilyE_faithful op
  case h_16 op => exact decodeFamilyF_faithful op
  case h_2 op | h_3 op | h_11 op | h_12 op => exact formatNNN_of_fields op
  case h_4 op | h_5 op | h_7 op | h_8 op | h_13 op => exact formatXNN_of_fields op
  case h_14 op => exact nibbles_of_fields op rfl
  case h_17 => rfl

theorem encode_of_decode {i : Instr} (h : decode w = .ok i) : encode i = w := by
  have faithful := decode_faithful w
  rwa [h] at faithful

/-- A rejection names the word, so a word is accepted or rejected in this one way. -/
theorem decode_cases (w : Word) : (∃ i, decode w = .ok i) ∨ decode w = .error (.unknownOpcode w) := by
  have faithful := decode_faithful w
  cases h : decode w with
  | ok i => exact .inl ⟨i, rfl⟩
  | error e => rw [h] at faithful; exact .inr (congrArg _ faithful)

end

/-! ### The rows of the table -/

/-- The mask that reads the family nibble and the `k` lowest bits; every row but the two full words of family 0 has it
with k of 0, 4 or 8 (R82). -/
def familyMask (k : Nat) : Word := BitVec.ofNat 16 (0xF000 + (2 ^ k - 1))

theorem toNat_and_familyMask (w : Word) {k : Nat} (hk : k ≤ 12) :
    (w &&& familyMask k).toNat = opField w * 4096 + bitField w 0 k := by
  have small : 2 ^ k ≤ 2 ^ 12 := Nat.pow_le_pow_right (by decide) hk
  have pos : 0 < 2 ^ k := Nat.two_pow_pos k
  have mask : (familyMask k).toNat = 0xF000 + (2 ^ k - 1) := by
    rw [familyMask, BitVec.toNat_ofNat, Nat.mod_eq_of_lt (by omega)]
  have high : (w &&& familyMask k).toNat / 2 ^ 12 = opField w := by
    rw [BitVec.toNat_and, mask, Nat.and_div_two_pow]
    have : (0xF000 + (2 ^ k - 1)) / 2 ^ 12 = 2 ^ 4 - 1 := by omega
    rw [this, Nat.and_two_pow_sub_one_eq_mod]
    rfl
  have low : (w &&& familyMask k).toNat % 2 ^ 12 = bitField w 0 k := by
    rw [BitVec.toNat_and, mask, Nat.and_mod_two_pow]
    have : (0xF000 + (2 ^ k - 1)) % 2 ^ 12 = 2 ^ k - 1 := by omega
    rw [this, Nat.and_two_pow_sub_one_eq_mod, Nat.mod_mod_of_dvd _ (Nat.pow_dvd_pow 2 hk)]
    simp [bitField]
  omega

/-- A row's mask and match read exactly the family and the low bits (R87). -/
theorem and_familyMask_eq_iff {w : Word} {k op low : Nat} (hk : k ≤ 12) (hop : op < 16) (hlow : low < 2 ^ k) :
    w &&& familyMask k = BitVec.ofNat 16 (op * 4096 + low) ↔ opField w = op ∧ bitField w 0 k = low := by
  have small : 2 ^ k ≤ 2 ^ 12 := Nat.pow_le_pow_right (by decide) hk
  have lowBits : bitField w 0 k < 2 ^ k := Nat.mod_lt _ (Nat.two_pow_pos k)
  rw [← BitVec.toNat_inj, toNat_and_familyMask w hk, BitVec.toNat_ofNat, Nat.mod_eq_of_lt (by omega)]
  omega

theorem and_familyNibble_eq_iff {w : Word} {op : Nat} (hop : op < 16) :
    w &&& 0xF000 = BitVec.ofNat 16 (op * 4096) ↔ opField w = op := by
  have noLowBits := and_familyMask_eq_iff (w := w) (k := 0) (low := 0) (by decide) hop (by decide)
  simpa [familyMask, bitField, Nat.mod_one] using noLowBits

section

variable {op low : Nat} (x y : Reg) (nn : Byte) (nnn : Addr)

theorem formatNNN_and_mask (hop : op < 16) : formatNNN op nnn &&& 0xF000 = BitVec.ofNat 16 (op * 4096) :=
  (and_familyNibble_eq_iff hop).2 (opField_formatNNN nnn hop)

theorem formatXNN_and_mask (hop : op < 16) : formatXNN op x nn &&& 0xF000 = BitVec.ofNat 16 (op * 4096) :=
  (and_familyNibble_eq_iff hop).2 (opField_formatXNN x nn hop)

theorem nibbles_and_familyMask (hop : op < 16) (hlow : low < 16) :
    nibbles op x y low &&& 0xF000 = BitVec.ofNat 16 (op * 4096) :=
  (and_familyNibble_eq_iff hop).2 (opField_nibbles x y hop hlow)

theorem nibbles_and_mask (hop : op < 16) (hlow : low < 16) :
    nibbles op x y low &&& 0xF00F = BitVec.ofNat 16 (op * 4096 + low) :=
  (and_familyMask_eq_iff (k := 4) (by decide) hop hlow).2
    ⟨opField_nibbles x y hop hlow, (congrArg Fin.val (nField_nibbles x y)).trans (Nat.mod_eq_of_lt hlow)⟩

theorem formatX_and_mask (hop : op < 16) (hlow : low < 256) :
    formatX op x low &&& 0xF0FF = BitVec.ofNat 16 (op * 4096 + low) :=
  (and_familyMask_eq_iff (k := 8) (by decide) hop hlow).2 ⟨opField_formatX x hop hlow, lowByte_formatX x hlow⟩

end

/-- The table has a row for every constructor, in the same order (R82). -/
theorem ctorIdx_lt (i : Instr) : i.ctorIdx < opcodeRows.length := by
  cases i <;> (simp only [Instr.ctorIdx]; decide)

/-- An encoding matches the row of its instruction (R82). -/
theorem encode_matches_row (i : Instr) :
    encode i &&& (opcodeRows[i.ctorIdx]'(ctorIdx_lt i)).mask = (opcodeRows[i.ctorIdx]'(ctorIdx_lt i)).fixed := by
  cases i
  case cls | ret => rfl
  case jp nnn | call nnn | ldI nnn | jpV0 nnn => exact formatNNN_and_mask nnn (by decide)
  case seImm x nn | sneImm x nn | ldImm x nn | addImm x nn | rnd x nn => exact formatXNN_and_mask x nn (by decide)
  case drw x y n => exact nibbles_and_familyMask x y (by decide) n.isLt
  case seReg x y | sneReg x y | ldReg x y | orReg x y | andReg x y | xorReg x y | addReg x y | subReg x y | shr x y |
      subnReg x y | shl x y => exact nibbles_and_mask x y (by decide) (by decide)
  all_goals next x => exact formatX_and_mask x (by decide) (by decide)

/-- Any two rows differ in a bit that both masks read. -/
theorem opcodeRows_apart : opcodeRows.Pairwise fun r q => r.fixed &&& q.mask ≠ q.fixed &&& r.mask := by decide

/-- Of rows that are apart, at most one accepts a word. -/
theorem length_le_one_of_apart {rows : List OpcodeRow} {w : Word}
    (apart : rows.Pairwise fun r q => r.fixed &&& q.mask ≠ q.fixed &&& r.mask)
    (accept : ∀ r ∈ rows, w &&& r.mask = r.fixed) : rows.length ≤ 1 := by
  match rows with
  | [] | [_] => simp
  | r :: q :: _ =>
    have agree : r.fixed &&& q.mask = q.fixed &&& r.mask := by
      rw [← accept r (by simp), ← accept q (by simp), BitVec.and_assoc, BitVec.and_assoc, BitVec.and_comm r.mask]
    exact absurd agree (List.rel_of_pairwise_cons apart List.mem_cons_self)

/-! ### Every word that a row accepts is an encoding -/

section

variable {w : Word} {op low : Nat}

theorem formatNNN_of_row (h : w &&& 0xF000 = BitVec.ofNat 16 (op * 4096)) (hop : op < 16 := by decide) :
    formatNNN op (nnnField w) = w :=
  formatNNN_of_fields ((and_familyNibble_eq_iff hop).1 h)

theorem formatXNN_of_row (h : w &&& 0xF000 = BitVec.ofNat 16 (op * 4096)) (hop : op < 16 := by decide) :
    formatXNN op (xField w) (nnField w) = w :=
  formatXNN_of_fields ((and_familyNibble_eq_iff hop).1 h)

theorem nibbles_of_familyRow (h : w &&& 0xF000 = BitVec.ofNat 16 (op * 4096)) (hop : op < 16 := by decide) :
    nibbles op (xField w) (yField w) (nField w) = w :=
  nibbles_of_fields ((and_familyNibble_eq_iff hop).1 h) rfl

theorem nibbles_of_row (h : w &&& 0xF00F = BitVec.ofNat 16 (op * 4096 + low)) (hop : op < 16 := by decide)
    (hlow : low < 16 := by decide) : nibbles op (xField w) (yField w) low = w :=
  have ⟨family, last⟩ := (and_familyMask_eq_iff (k := 4) (by decide) hop hlow).1 h
  nibbles_of_fields family last

theorem formatX_of_row (h : w &&& 0xF0FF = BitVec.ofNat 16 (op * 4096 + low)) (hop : op < 16 := by decide)
    (hlow : low < 256 := by decide) : formatX op (xField w) low = w :=
  have ⟨family, last⟩ := (and_familyMask_eq_iff (k := 8) (by decide) hop hlow).1 h
  formatX_of_fields family last

theorem exists_encode_of_rowA : ∀ r ∈ opcodeRowsA, w &&& r.mask = r.fixed → ∃ i, encode i = w := by
  simp only [opcodeRowsA, List.forall_mem_cons]
  exact ⟨fun h => ⟨.cls, h.symm.trans w.and_allOnes⟩, fun h => ⟨.ret, h.symm.trans w.and_allOnes⟩,
    fun h => ⟨.jp _, formatNNN_of_row h⟩, fun h => ⟨.call _, formatNNN_of_row h⟩,
    fun h => ⟨.seImm _ _, formatXNN_of_row h⟩, fun h => ⟨.sneImm _ _, formatXNN_of_row h⟩,
    fun h => ⟨.seReg _ _, nibbles_of_row h⟩, fun h => ⟨.ldImm _ _, formatXNN_of_row h⟩,
    fun h => ⟨.addImm _ _, formatXNN_of_row h⟩, fun h => ⟨.ldReg _ _, nibbles_of_row h⟩,
    fun h => ⟨.orReg _ _, nibbles_of_row h⟩, fun h => ⟨.andReg _ _, nibbles_of_row h⟩,
    fun h => ⟨.xorReg _ _, nibbles_of_row h⟩, List.forall_mem_nil _⟩

theorem exists_encode_of_rowB : ∀ r ∈ opcodeRowsB, w &&& r.mask = r.fixed → ∃ i, encode i = w := by
  simp only [opcodeRowsB, List.forall_mem_cons]
  exact ⟨fun h => ⟨.addReg _ _, nibbles_of_row h⟩, fun h => ⟨.subReg _ _, nibbles_of_row h⟩,
    fun h => ⟨.shr _ _, nibbles_of_row h⟩, fun h => ⟨.subnReg _ _, nibbles_of_row h⟩,
    fun h => ⟨.shl _ _, nibbles_of_row h⟩, fun h => ⟨.sneReg _ _, nibbles_of_row h⟩,
    fun h => ⟨.ldI _, formatNNN_of_row h⟩, fun h => ⟨.jpV0 _, formatNNN_of_row h⟩,
    fun h => ⟨.rnd _ _, formatXNN_of_row h⟩, fun h => ⟨.drw _ _ _, nibbles_of_familyRow h⟩, List.forall_mem_nil _⟩

theorem exists_encode_of_rowC : ∀ r ∈ opcodeRowsC, w &&& r.mask = r.fixed → ∃ i, encode i = w := by
  simp only [opcodeRowsC, List.forall_mem_cons]
  exact ⟨fun h => ⟨.skp _, formatX_of_row h⟩, fun h => ⟨.sknp _, formatX_of_row h⟩,
    fun h => ⟨.ldVxDt _, formatX_of_row h⟩, fun h => ⟨.ldDtVx _, formatX_of_row h⟩,
    fun h => ⟨.ldStVx _, formatX_of_row h⟩, fun h => ⟨.addI _, formatX_of_row h⟩,
    fun h => ⟨.ldVxK _, formatX_of_row h⟩, fun h => ⟨.ldF _, formatX_of_row h⟩, fun h => ⟨.ldB _, formatX_of_row h⟩,
    fun h => ⟨.storeRegs _, formatX_of_row h⟩, fun h => ⟨.loadRegs _, formatX_of_row h⟩, List.forall_mem_nil _⟩

theorem exists_encode_of_row (r : OpcodeRow) (hr : r ∈ opcodeRows) (h : w &&& r.mask = r.fixed) :
    ∃ i, encode i = w := by
  rcases List.mem_append.1 hr with hr | hr
  · rcases List.mem_append.1 hr with hr | hr
    · exact exists_encode_of_rowA r hr h
    · exact exists_encode_of_rowB r hr h
  · exact exists_encode_of_rowC r hr h

theorem exists_row_of_decode {i : Instr} (h : decode w = .ok i) : ∃ r ∈ opcodeRows, w &&& r.mask = r.fixed :=
  encode_of_decode h ▸ ⟨_, List.getElem_mem (ctorIdx_lt i), encode_matches_row i⟩

end

end Sys2Proof

/-! ### Fetch and the answers of a Cycle (30_encoding.md R80, R81, R92) -/

namespace Sys2Proof

theorem toNat_wordOfBytes (hi lo : Byte) : (wordOfBytes hi lo).toNat = hi.toNat * 256 + lo.toNat := by
  rw [wordOfBytes, BitVec.toNat_ofNat]
  omega

end Sys2Proof

namespace Sys2Proof.Machine

open Sys2Proof.Claims

section

variable (s : State)

/-- A queued Cycle and the one called with nothing queued give one answer. -/
theorem cycleAnswers_of_cycle {s : State} {o : Result} (h : cycle s = o) : CycleAnswers s o :=
  ⟨h, fun idle => (step_of_idle s idle).trans h⟩

/-- No Cycle stops the block, by its four cases. -/
theorem exists_cycle_next : ∃ t, cycle s = .next t := by
  rcases cycle_cases s with ⟨f, -, e⟩ | ⟨-, -, e⟩ | ⟨-, -, -, e⟩ | ⟨-, -, i, -, e⟩
  · exact ⟨_, e⟩
  · exact ⟨_, e⟩
  · exact ⟨_, e⟩
  · obtain ⟨u, hu⟩ := exec_next s.advance i
    exact ⟨u.endCycle, by rw [e, hu]; rfl⟩

theorem exists_txnLoadRom_next (readable : Bool) (bytes : List Byte) :
    ∃ t, txnLoadRom readable bytes s = .next t := by
  unfold txnLoadRom
  split
  · exact ⟨_, rfl⟩
  · split <;> exact ⟨_, rfl⟩

/-- Every transaction is performed, but for TickTimers under CYCLE_COUPLED (60_exceptions.md R256). -/
theorem perform_next_or_refused (x : Txn) :
    (∃ t, perform x s = .next t) ∨
    (perform x s = .refused .tickTimersUnderCycleCoupled ∧ s.cfg.timerPolicy = .cycleCoupled ∧ x = .tickTimers) := by
  cases x with
  | cycle => exact .inl (exists_cycle_next s)
  | tickTimers =>
    cases policy : s.cfg.timerPolicy with
    | decoupled => exact .inl ⟨_, by simp only [perform, txnTickTimers, policy]; rfl⟩
    | cycleCoupled => exact .inr ⟨by simp only [perform, txnTickTimers, policy], rfl, rfl⟩
  | loadRom readable bytes => exact .inl (exists_txnLoadRom_next s readable bytes)
  | initBlock | setKeyState | getVideo | readTimers | readFault => exact .inl ⟨_, rfl⟩

theorem ticked_countDown (t : Byte) : Ticked t (countDown t) := by
  rw [Ticked, countDown_toNat]
  split <;> omega

/-- Passing over an unrecognized word changes pc, the timers and the two outputs alone (30_encoding.md R92). -/
theorem State.unknownWord_eq (w : Word) :
    s.unknownWord w = { s with
      pc := (s.unknownWord w).pc
      dt := (s.unknownWord w).dt
      st := (s.unknownWord w).st
      diags := (s.unknownWord w).diags
      result := (s.unknownWord w).result } := by
  unfold State.unknownWord State.coupledTick
  split <;> rfl

theorem State.unknownWord_pc (w : Word) : (s.unknownWord w).pc = s.pc + 2 := s.advance.coupledTick_pc

theorem State.unknownWord_dt (w : Word) : (s.unknownWord w).dt = s.advance.coupledTick.dt := rfl

theorem State.unknownWord_st (w : Word) : (s.unknownWord w).st = s.advance.coupledTick.st := rfl

/-- The address a failed fetch reports, as the 16 bits the latch holds (60_exceptions.md R245). -/
theorem fetchFault_info (beyond : 0xFFF ≤ s.pc.toNat) :
    BitVec.ofNat 16 (max s.pc.toNat 0x1000) = if s.pc.toNat = 0xFFF then 0x1000 else s.pc := by
  split
  · next last => rw [last]; rfl
  · next above => rw [Nat.max_eq_left (by omega), BitVec.ofNat_toNat, BitVec.setWidth_eq]

end

end Sys2Proof.Machine

namespace Sys2Proof.Proofs

open Sys2Proof.Machine Sys2Proof.Claims

/-- Settles O1, by the formats of R88. -/
theorem decodeOfEncodeIsTheInstruction : Obligations.DecodeOfEncodeIsTheInstruction := decode_encode

/-- Settles O2, by the families of R86. -/
theorem encodeOfDecodeIsTheWord : Obligations.EncodeOfDecodeIsTheWord := fun _ _ => encode_of_decode

/-- Settles O3: an accepted word is its instruction's encoding and so matches that instruction's row; a word that a row
accepts is an encoding and so decodes. -/
theorem decodeRecognizesExactlyTheTable : Obligations.DecodeRecognizesExactlyTheTable := by
  refine fun w => ⟨⟨?_, ?_⟩, fun noRow => ?_⟩
  · rintro ⟨i, h⟩
    exact exists_row_of_decode h
  · rintro ⟨r, hr, h⟩
    obtain ⟨i, rfl⟩ := exists_encode_of_row r hr h
    exact ⟨i, decode_encode i⟩
  · rcases decode_cases w with ⟨i, h⟩ | h
    · obtain ⟨r, hr, accepts⟩ := exists_row_of_decode h
      exact absurd accepts (noRow r hr)
    · exact h

/-- Settles O4: any two rows differ in a bit that both masks read, so no word matches both. -/
theorem noWordMatchesTwoRows : Obligations.NoWordMatchesTwoRows := by
  refine ⟨rfl, fun w => ?_⟩
  exact length_le_one_of_apart (opcodeRows_apart.filter _) fun r hr => of_decide_eq_true (List.mem_filter.1 hr).2

/-- Settles O11: no row accepts the word, so the decoder rejects it, and the Cycle passes over it. -/
theorem unrecognizedWordIsANoOpWithADiagnostic : Obligations.UnrecognizedWordIsANoOpWithADiagnostic := by
  intro s clear inside w noRow
  have rejected : decode w = .error (.unknownOpcode w) := (decodeRecognizesExactlyTheTable w).2 noRow
  have answer : cycle s = .next (s.unknownWord w) := cycle_of_unknown s clear inside _ rejected
  refine ⟨_, cycleAnswers_of_cycle answer, ?_, rfl, rfl, ?_, fun policy => ?_, fun policy => ?_⟩
  · simp only [s.unknownWord_pc, BitVec.toNat_add, BitVec.reduceToNat]
    omega
  · exact s.unknownWord_eq w
  · rw [s.unknownWord_dt, s.unknownWord_st, s.advance.coupledTick_decoupled policy]
    exact ⟨rfl, rfl⟩
  · rw [s.unknownWord_dt, s.unknownWord_st, s.advance.coupledTick_cycleCoupled policy]
    exact ⟨ticked_countDown s.dt, ticked_countDown s.st⟩

/-- Settles O13, by the oldest queued transaction, or the Cycle called with none. -/
theorem onlyTheMixedTickIsRefused : Obligations.OnlyTheMixedTickIsRefused := by
  intro s
  cases queue : s.pending with
  | nil =>
    rw [step_of_idle s queue]
    exact .inl (exists_cycle_next s)
  | cons x rest =>
    rw [step_of_pending s x rest queue]
    rcases perform_next_or_refused { s with pending := rest } x with performed | ⟨refused, policy, rfl⟩
    · exact .inl performed
    · exact .inr ⟨refused, policy, rest, rfl⟩

/-- Settles O5: closed words, each decoded by evaluation. -/
theorem sampleWordsDecode : Obligations.SampleWordsDecode := by
  unfold Obligations.SampleWordsDecode
  decide

/-- Settles O6: both bytes exist exactly below 0xFFF. -/
theorem fetchReadsABigEndianWord : Obligations.FetchReadsABigEndianWord := by
  intro s
  refine ⟨fun inside => ⟨_, s.fetch_ok (Nat.le_of_lt_succ inside), toNat_wordOfBytes _ _⟩, fun beyond => ?_⟩
  exact ⟨_, s.fetch_error beyond, Nat.le_max_right _ _⟩

/-- Settles O7: every instruction answers a next state, and the end of the Cycle goes by its latch and by the policy. -/
theorem stepRunsTheDecodedInstruction : Obligations.StepRunsTheDecodedInstruction := by
  intro s i clear inside decoded
  apply cycleAnswers_of_cycle
  obtain ⟨u, hu⟩ := exec_next s.advance i
  rw [cycle_of_decoded s clear inside i decoded, show { s with pc := s.pc + 2 } = s.advance from rfl, hu]
  refine congrArg Host.Outcome.next ?_
  rcases u.fault.eq_none_or_eq_some with latch | ⟨f, latch⟩
  · rw [u.endCycle_ok latch]
    cases policy : u.cfg.timerPolicy with
    | decoupled => simp only [latch, u.coupledTick_decoupled policy]
    | cycleCoupled => simp only [latch, u.coupledTick_cycleCoupled policy, State.tick]
  · simp only [latch, u.endCycle_faulted f latch]

/-- Settles O10, by the fetch that fails at the byte at pc, or at the next where pc is the last byte. -/
theorem fetchBeyondMemoryLatchesAFault : Obligations.FetchBeyondMemoryLatchesAFault := by
  intro s clear beyond
  apply cycleAnswers_of_cycle
  rw [cycle_of_badPc s clear beyond, State.fetchFault, fetchFault_info s beyond]
  rfl

end Sys2Proof.Proofs

/-! ### Control flow (40_flow.md R110 to R117) -/

namespace Sys2Proof

theorem toNat_addr_toWord (a : Addr) : a.toWord.toNat = a.toNat :=
  BitVec.toNat_setWidth_of_le (by decide)

theorem toNat_byte_toWord (b : Byte) : b.toWord.toNat = b.toNat :=
  BitVec.toNat_setWidth_of_le (by decide)

end Sys2Proof

namespace Sys2Proof.Machine

open Sys2Proof.Claims

/-- A word written out in its fields decodes when it is the instruction's encoding. -/
theorem wordDecodes_of_encode {word : Nat} {i : Instr} (h : encode i = BitVec.ofNat 16 word) : WordDecodes word i :=
  (congrArg decode h.symm).trans (decode_encode i)

section

variable (s : State) (nnn : Addr)

/-- The sum of JP V0 does not wrap (R117). -/
theorem toNat_jpV0_target (b : Byte) : (b.toWord + nnn.toWord).toNat = b.toNat + nnn.toNat := by
  have := b.isLt
  have := nnn.isLt
  rw [BitVec.toNat_add, toNat_byte_toWord, toNat_addr_toWord]
  omega

/-! #### The call stack -/

theorem exec_call_of_free (free : s.sp.val < 16) : exec (.call nnn) s = .next { s with
    stack := s.stack.set s.sp.val s.pc free, sp := ⟨s.sp.val + 1, Nat.succ_lt_succ free⟩, pc := nnn.toWord } :=
  dif_pos free

theorem exec_call_of_full (full : s.sp.val = 16) : exec (.call nnn) s = .next (s.raise .stackOverflow 16) :=
  dif_neg full.not_lt

theorem exec_ret_of_used {n : Nat} (h : n < 16) (used : s.sp.val = n + 1) :
    exec .ret s = .next { s with sp := ⟨n, Nat.lt_succ_of_lt h⟩, pc := s.stack[n] } := by
  have nonempty : s.sp.val ≠ 0 := used ▸ Nat.succ_ne_zero n
  refine (dif_neg nonempty).trans ?_
  simp only [used, Nat.add_sub_cancel]

theorem exec_ret_of_empty (empty : s.sp.val = 0) : exec .ret s = .next (s.raise .stackUnderflow 0) :=
  dif_pos empty

/-! #### The skips -/

/-- A skip, taken or not, changes pc alone. -/
theorem State.skipIf_eq (cond : Bool) : s.skipIf cond = { s with pc := (s.skipIf cond).pc } := by
  cases cond <;> rfl

/-- What every compare answers, given the pc its condition leads to. -/
theorem exists_skipIf_next (cond : Bool) {pc : Word} (target : (s.skipIf cond).pc = pc) :
    ∃ t, (.next (s.skipIf cond) : Result) = .next t ∧ t.pc = pc ∧ t = { s with pc := t.pc } ∧ SameBytes s t :=
  ⟨_, rfl, target, s.skipIf_eq cond, s.byteAt_skipIf cond⟩

theorem State.skipIf_beq_pc (a b : Byte) : (s.skipIf (a == b)).pc = if a = b then s.pc + 2 else s.pc := by
  simp only [State.skipIf_pc, beq_iff_eq]

theorem State.skipIf_bne_pc (a b : Byte) : (s.skipIf (a != b)).pc = if a = b then s.pc else s.pc + 2 := by
  simp only [State.skipIf_pc, bne_iff_ne, ite_not]

end

end Sys2Proof.Machine

namespace Sys2Proof.Proofs

open Sys2Proof.Machine Sys2Proof.Claims

/-- Settles O27: the entry that CALL wrote at its sp is the one RET reads, and sp comes back to it. -/
theorem returnUndoesCall : Obligations.ReturnUndoesCall := by
  intro nnn s t u free called stackKept spKept
  rw [exec_call_of_free s nnn free] at called
  cases called
  have used : u.sp.val = s.sp.val + 1 := congrArg Fin.val spKept
  refine ⟨_, exec_ret_of_used u free used, ?_, rfl⟩
  simp only [stackKept, Vector.getElem_set_self]

/-- Settles O24. -/
theorem jumpsSetPc : Obligations.JumpsSetPc := by
  refine fun nnn s => ⟨⟨wordDecodes_of_encode rfl, ?_⟩, wordDecodes_of_encode rfl, ?_⟩
  · exact ⟨_, rfl, toNat_addr_toWord nnn, rfl, fun _ => rfl⟩
  · exact ⟨_, rfl, toNat_jpV0_target nnn (s.reg 0), rfl, fun _ => rfl⟩

/-- Settles O25: CALL pushes where an entry is free and raises where none is. -/
theorem callPushesTheReturnAddress : Obligations.CallPushesTheReturnAddress := by
  refine fun nnn s => ⟨wordDecodes_of_encode rfl, fun free => ?_, fun full => exec_call_of_full s nnn full⟩
  refine ⟨_, exec_call_of_free s nnn free, toNat_addr_toWord nnn, rfl, fun k h => ?_, rfl, fun _ => rfl⟩
  simp only [Vector.getElem_set, eq_comm]

/-- Settles O26: RET pops where an entry is in use and raises where none is. -/
theorem returnPopsTheReturnAddress : Obligations.ReturnPopsTheReturnAddress := by
  refine fun s => ⟨wordDecodes_of_encode rfl, fun n h used => ?_, exec_ret_of_empty s⟩
  exact ⟨_, exec_ret_of_used s h used, rfl, rfl, rfl, fun _ => rfl⟩

/-- Settles O28: each compare is a skip on equality or on inequality. -/
theorem comparesSkipOneWord : Obligations.ComparesSkipOneWord := by
  intro x y nn s
  refine ⟨⟨wordDecodes_of_encode rfl, ?_⟩, ⟨wordDecodes_of_encode rfl, ?_⟩, ⟨wordDecodes_of_encode rfl, ?_⟩,
    wordDecodes_of_encode rfl, ?_⟩
  · exact exists_skipIf_next s _ (s.skipIf_beq_pc (s.reg x) nn)
  · exact exists_skipIf_next s _ (s.skipIf_bne_pc (s.reg x) nn)
  · exact exists_skipIf_next s _ (s.skipIf_beq_pc (s.reg x) (s.reg y))
  · exact exists_skipIf_next s _ (s.skipIf_bne_pc (s.reg x) (s.reg y))

end Sys2Proof.Proofs

/-! ### Registers and ALU (41_alu.md R140 to R152) -/

namespace Sys2Proof

/-- The four nibbles, grouped as the patterns of R82 write them: the fixed bits, then x, then y. -/
theorem nibbles_eq_ofNat (op x y low : Nat) : nibbles op x y low = BitVec.ofNat 16 (op * 4096 + low + x * 256 + y * 16) :=
  congrArg (BitVec.ofNat 16) (by omega)

theorem toNat_byte_sub (a b : Byte) : (a - b).toNat = (a.toNat + 256 - b.toNat) % 256 := by
  have := b.isLt
  rw [BitVec.toNat_sub]
  omega

theorem toNat_byte_ushiftRight_one (a : Byte) : (a >>> 1).toNat = a.toNat / 2 := by
  rw [BitVec.toNat_ushiftRight, Nat.shiftRight_eq_div_pow, pow_one]

theorem toNat_byte_shiftLeft_one (a : Byte) : (a <<< 1).toNat = 2 * a.toNat % 256 := by
  rw [BitVec.toNat_shiftLeft, Nat.shiftLeft_eq, pow_one, Nat.mul_comm]

end Sys2Proof

namespace Sys2Proof.Machine

open Sys2Proof.Claims

/-! #### The flag values (R152) -/

theorem toNat_flagByte (b : Bool) : (flagByte b).toNat = b.toNat := by
  cases b <;> rfl

theorem toNat_flagByte_decide (p : Prop) [Decidable p] : (flagByte (decide p)).toNat = if p then 1 else 0 := by
  rw [toNat_flagByte, Bool.toNat, Bool.cond_decide]

theorem toNat_flagByte_shiftedOutRight (a : Byte) : (flagByte (shiftedOutRight a)).toNat = a.toNat % 2 := by
  rw [toNat_flagByte, shiftedOutRight, BitVec.getLsbD, Nat.toNat_testBit, pow_zero, Nat.div_one]

theorem toNat_flagByte_shiftedOutLeft (a : Byte) : (flagByte (shiftedOutLeft a)).toNat = a.toNat / 128 := by
  have := a.isLt
  rw [toNat_flagByte, shiftedOutLeft, BitVec.getLsbD, Nat.toNat_testBit]
  omega

/-- A right shift empties a flag: the form x = F of SHR (R148). -/
theorem flagByte_ushiftRight_one (b : Bool) : flagByte b >>> 1 = 0 := by
  cases b <;> rfl

/-- A left shift doubles a flag: the form x = F of SHL (R150). -/
theorem toNat_flagByte_shiftLeft_one (b : Bool) : (flagByte b <<< 1).toNat = 2 * (flagByte b).toNat := by
  cases b <;> rfl

section

variable (s : State) (x : Reg) (b : Byte) (flag : Bool)

/-! #### What a flag write and a data write leave -/

theorem State.reg_setFlag_flag : (s.setFlag flag).reg 15 = flagByte flag := s.reg_setReg_same 15 (flagByte flag)

theorem State.reg_setFlag_ne {r : Reg} (hr : r ≠ 15) : (s.setFlag flag).reg r = s.reg r :=
  s.reg_setReg_ne 15 r (flagByte flag) hr

/-- The flag stays in VF unless the data write behind it goes there (R8). -/
theorem State.reg_setFlag_setReg_flag (hx : x ≠ 15) : ((s.setFlag flag).setReg x b).reg 15 = flagByte flag :=
  ((s.setFlag flag).reg_setReg_ne x 15 b hx.symm).trans (s.reg_setFlag_flag flag)

theorem State.setReg_regsKept : RegsKeptBut s (s.setReg x b) [x] :=
  fun r hr => s.reg_setReg_ne x r b (List.ne_of_not_mem_cons hr)

theorem State.setReg_frame : RegsKeptBut s (s.setReg x b) [x] ∧ s.setReg x b = { s with v := (s.setReg x b).v } ∧
    SameBytes s (s.setReg x b) :=
  ⟨s.setReg_regsKept x b, rfl, s.byteAt_setReg x b⟩

/-- The frame of every ALU instruction that writes a flag. -/
theorem State.setFlag_setReg_frame :
    let t := (s.setFlag flag).setReg x b
    RegsKeptBut s t [x, 15] ∧ t = { s with v := t.v } ∧ SameBytes s t := by
  refine ⟨fun r hr => ?_, rfl, fun _ => rfl⟩
  simp only [List.mem_cons, List.not_mem_nil, or_false, not_or] at hr
  exact s.reg_setFlag_setReg_ne x r flag b hr.1 hr.2

/-! #### The subtractions, behind the flag write, whose operands the flag has replaced where they are VF (R147, R149) -/

theorem State.reg_subtractInto (m u : Reg) : (s.subtractInto x m u).reg x = s.reg m - s.reg u :=
  s.reg_setReg_same x _

theorem State.toNat_reg_subtractInto (m u : Reg) :
    ((s.subtractInto x m u).reg x).toNat = ((s.reg m).toNat + 256 - (s.reg u).toNat) % 256 := by
  rw [State.reg_subtractInto, toNat_byte_sub]

variable {flag} {m u : Reg} {f : Nat}

theorem State.toNat_reg_subtractInto_of_ne (hm : m ≠ 15) (hu : u ≠ 15) :
    (((s.setFlag flag).subtractInto x m u).reg x).toNat = ((s.reg m).toNat + 256 - (s.reg u).toNat) % 256 := by
  rw [State.toNat_reg_subtractInto, s.reg_setFlag_ne flag hm, s.reg_setFlag_ne flag hu]

theorem State.toNat_reg_subtractInto_flag (hf : (flagByte flag).toNat = f) (hm : m ≠ 15) :
    (((s.setFlag flag).subtractInto x m 15).reg x).toNat = ((s.reg m).toNat + 256 - f) % 256 := by
  rw [State.toNat_reg_subtractInto, s.reg_setFlag_ne flag hm, s.reg_setFlag_flag, hf]

theorem State.toNat_reg_subtractInto_from_flag (hf : (flagByte flag).toNat = f) (hu : u ≠ 15) :
    (((s.setFlag flag).subtractInto x 15 u).reg x).toNat = (f + 256 - (s.reg u).toNat) % 256 := by
  rw [State.toNat_reg_subtractInto, s.reg_setFlag_flag, s.reg_setFlag_ne flag hu, hf]

theorem State.reg_subtractInto_self (m : Reg) : (s.subtractInto x m m).reg x = 0 :=
  (s.reg_subtractInto x m m).trans (BitVec.sub_self _)

end

end Sys2Proof.Machine

namespace Sys2Proof.Proofs

open Sys2Proof.Machine Sys2Proof.Claims

/-- Settles O31: the sum is of the old values, and it is written after the carry. -/
theorem addWithCarry : Obligations.AddWithCarry := by
  refine fun x y s => ⟨wordDecodes_of_encode (nibbles_eq_ofNat 8 x y 4), _, rfl, ?_, fun hx => ?_,
    s.setFlag_setReg_frame x _ _⟩
  · rw [State.reg_setReg_same, BitVec.toNat_add]
  · rw [State.reg_setFlag_setReg_flag _ _ _ _ hx, carry, toNat_flagByte_decide]

/-- Settles O32, by which of the two operands, read after the flag write, is the flag. -/
theorem subtractWithNotBorrow : Obligations.SubtractWithNotBorrow := by
  intro x y s
  have hf : (flagByte (notBorrow (s.reg x) (s.reg y))).toNat = if (s.reg x).toNat > (s.reg y).toNat then 1 else 0 :=
    toNat_flagByte_decide _
  refine ⟨wordDecodes_of_encode (nibbles_eq_ofNat 8 x y 5), _, rfl, fun hx => ?_, s.toNat_reg_subtractInto_of_ne x, ?_, ?_,
    ?_, s.setFlag_setReg_frame x _ _⟩
  · exact (congrArg BitVec.toNat (s.reg_setFlag_setReg_flag x _ _ hx)).trans hf
  · rintro hx rfl
    exact s.toNat_reg_subtractInto_flag x hf hx
  · rintro rfl hy
    exact s.toNat_reg_subtractInto_from_flag 15 hf hy
  · rintro rfl rfl
    exact State.reg_subtractInto_self _ 15 15

/-- Settles O33, as O32 with the operands exchanged: it is the minuend that is the flag with y = F. -/
theorem reverseSubtractWithNotBorrow : Obligations.ReverseSubtractWithNotBorrow := by
  intro x y s
  have hf : (flagByte (notBorrow (s.reg y) (s.reg x))).toNat = if (s.reg y).toNat > (s.reg x).toNat then 1 else 0 :=
    toNat_flagByte_decide _
  refine ⟨wordDecodes_of_encode (nibbles_eq_ofNat 8 x y 7), _, rfl, fun hx => ?_,
    fun hx hy => s.toNat_reg_subtractInto_of_ne x hy hx, ?_, ?_, ?_, s.setFlag_setReg_frame x _ _⟩
  · exact (congrArg BitVec.toNat (s.reg_setFlag_setReg_flag x _ _ hx)).trans hf
  · rintro hx rfl
    exact s.toNat_reg_subtractInto_from_flag x hf hx
  · rintro rfl hy
    exact s.toNat_reg_subtractInto_flag 15 hf hy
  · rintro rfl rfl
    exact State.reg_subtractInto_self _ 15 15

/-- Settles O34: Vx is read after the flag write, so with x = F the flag itself is shifted. -/
theorem shiftsByOne : Obligations.ShiftsByOne := by
  refine fun x y s => ⟨⟨wordDecodes_of_encode (nibbles_eq_ofNat 8 x y 6), _, rfl, fun hx => ⟨?_, ?_⟩, fun hx => ?_,
    s.setFlag_setReg_frame x _ _⟩, wordDecodes_of_encode (nibbles_eq_ofNat 8 x y 14), _, rfl, fun hx => ⟨?_, ?_⟩,
    fun hx => ?_, s.setFlag_setReg_frame x _ _⟩
  · rw [State.reg_setReg_same, s.reg_setFlag_ne _ hx, toNat_byte_ushiftRight_one]
  · rw [State.reg_setFlag_setReg_flag _ _ _ _ hx, toNat_flagByte_shiftedOutRight]
  · subst hx
    rw [State.reg_setReg_same, s.reg_setFlag_flag, flagByte_ushiftRight_one]
  · rw [State.reg_setReg_same, s.reg_setFlag_ne _ hx, toNat_byte_shiftLeft_one]
  · rw [State.reg_setFlag_setReg_flag _ _ _ _ hx, toNat_flagByte_shiftedOutLeft]
  · subst hx
    rw [State.reg_setReg_same, s.reg_setFlag_flag, toNat_flagByte_shiftLeft_one, toNat_flagByte_shiftedOutLeft]

/-- Settles O29. -/
theorem loadsAndImmediateAdd : Obligations.LoadsAndImmediateAdd := by
  refine fun x y nn s => ⟨⟨wordDecodes_of_encode rfl, _, rfl, ?_, s.setReg_frame x _⟩,
    ⟨wordDecodes_of_encode rfl, _, rfl, ?_, s.setReg_frame x _⟩, wordDecodes_of_encode rfl, _, rfl, ?_, s.setReg_frame x _⟩
  · exact s.reg_setReg_same x nn
  · rw [State.reg_setReg_same, BitVec.toNat_add]
  · exact s.reg_setReg_same x (s.reg y)

/-- Settles O30. -/
theorem bitwiseOperations : Obligations.BitwiseOperations := by
  refine fun x y s => ⟨⟨wordDecodes_of_encode (nibbles_eq_ofNat 8 x y 1), _, rfl, fun k => ?_, s.setReg_frame x _⟩,
    ⟨wordDecodes_of_encode (nibbles_eq_ofNat 8 x y 2), _, rfl, fun k => ?_, s.setReg_frame x _⟩,
    wordDecodes_of_encode (nibbles_eq_ofNat 8 x y 3), _, rfl, fun k => ?_, s.setReg_frame x _⟩
  · rw [State.reg_setReg_same, BitVec.getLsbD_or]
  · rw [State.reg_setReg_same, BitVec.getLsbD_and]
  · rw [State.reg_setReg_same, BitVec.getLsbD_xor, Bool.bne_eq_xor]

/-- Settles O35: the draw is counted before the write of Vx, which is the only one to a register. -/
theorem randomByteIsMasked : Obligations.RandomByteIsMasked := by
  intro x nn s
  refine ⟨wordDecodes_of_encode rfl, _, rfl, fun k => ?_, fun hnn => ?_, rfl, ?_, rfl, fun _ => rfl⟩
  · rw [State.reg_setReg_same, BitVec.getLsbD_and]
  · subst hnn
    exact (State.reg_setReg_same _ x _).trans BitVec.and_zero
  · exact State.setReg_regsKept { s with draws := s.draws + 1 } x _

end Sys2Proof.Proofs

/-! ### Index and memory (42_index_memory.md R180 to R186) -/

namespace Sys2Proof

/-- Format X, grouped as the patterns of R82 write it: the fixed bits, then x. -/
theorem formatX_eq_ofNat (op low : Nat) (x : Reg) : formatX op x low = BitVec.ofNat 16 (op * 4096 + low + x.val * 256) :=
  congrArg (BitVec.ofNat 16) (Nat.add_right_comm _ _ _)

end Sys2Proof

namespace Sys2Proof.Machine

open Sys2Proof.Claims

/-! #### The three digits and the glyph address -/

theorem toNat_bcdDigit {n : Nat} {b : Byte} (h : n ≤ b.toNat) : (BitVec.ofNat 8 n).toNat = n :=
  Nat.mod_eq_of_lt (h.trans_lt b.isLt)

/-- The address of a glyph fits 16 bits, so the product does not wrap (R182). -/
theorem toNat_glyphAddress (b : Byte) : (glyphAddress b).toNat = 5 * b.toNat := by
  have := b.isLt
  exact Nat.mod_eq_of_lt (by omega)

section

variable {s : State} {bytes : List Byte} {base count a : Nat} {x : Reg}

/-! #### The lowest failing address (20_memory.md R56) -/

/-- The converse of `firstFailing_lowest`. -/
theorem firstFailing_of_lowest {check : Nat → Option FaultCode} {code : FaultCode} (lower : base ≤ a)
    (upper : a < base + count) (fails : check a = some code) (passes : ∀ b, base ≤ b → b < a → check b = none) :
    firstFailing check base count = some (code, a) := by
  obtain ⟨k, rfl⟩ := Nat.exists_eq_add_of_le lower
  exact (firstFailing_eq_some _ _ _ _ _).2 ⟨k, Nat.lt_of_add_lt_add_left upper, rfl, fails,
    fun j hj => passes _ (Nat.le_add_right base j) (Nat.add_lt_add_left hj base)⟩

/-- A block of reads that reaches past the memory fails at its first address, or at the memory's end. -/
theorem firstFailing_readCheck_beyond (beyond : max base 0x1000 < base + count) :
    firstFailing readCheck base count = some (.addressOutOfRange, max base 0x1000) :=
  firstFailing_of_lowest (Nat.le_max_left _ _) beyond ((readCheck_eq_some _ _).2 ⟨Nat.le_max_right _ _, rfl⟩)
    fun b _ below => (readCheck_eq_none b).2 (by omega)

/-- A block of writes above the protected bytes fails where a block of reads does (R53). -/
theorem firstFailing_writeCheck_beyond (c : Config) (high : 0x200 ≤ base) (beyond : max base 0x1000 < base + count) :
    firstFailing (writeCheck c) base count = some (.addressOutOfRange, max base 0x1000) :=
  firstFailing_of_lowest (Nat.le_max_left _ _) beyond ((writeCheck_eq_some _ _ _).2 (.inl ⟨Nat.le_max_right _ _, rfl⟩))
    fun b _ below => (writeCheck_eq_none c b).2 ⟨by omega, fun _ => by omega⟩

/-! #### The faults of the moves -/

/-- A store from I below 0x200 under the protection faults at its first byte. -/
theorem State.storeAtIndex_of_protected (nonempty : 0 < bytes.length) (protects : s.cfg.protectLowMemory = true)
    (low : s.idx.toNat < 0x200) : Raises (s.storeAtIndex bytes) s .protectedWrite s.idx.toNat := by
  have fails : firstFailing (writeCheck s.cfg) (s.ea 0) bytes.length = some (.protectedWrite, s.idx.toNat) :=
    firstFailing_of_lowest (Nat.le_refl _) (Nat.lt_add_of_pos_right nonempty)
      ((writeCheck_eq_some _ _ _).2 (.inr ⟨low, protects, rfl⟩)) fun b lower below => absurd lower below.not_ge
  rw [State.storeAtIndex, fails]
  rfl

/-- A store past the memory starts above the protected bytes, since it has at most 16 bytes. -/
theorem State.storeAtIndex_of_beyond (nonempty : 0 < bytes.length) (few : bytes.length ≤ 16)
    (beyond : 0x1000 < s.idx.toNat + bytes.length) :
    Raises (s.storeAtIndex bytes) s .addressOutOfRange (max s.idx.toNat 0x1000) := by
  have fails : firstFailing (writeCheck s.cfg) (s.ea 0) bytes.length = some (.addressOutOfRange, max s.idx.toNat 0x1000) :=
    firstFailing_writeCheck_beyond s.cfg (by simp only [State.ea]; omega)
      (Nat.max_lt.2 ⟨Nat.lt_add_of_pos_right nonempty, beyond⟩)
  rw [State.storeAtIndex, fails]
  rfl

theorem exec_loadRegs_of_beyond (beyond : 0x1000 < s.idx.toNat + (x.val + 1)) :
    Raises (exec (.loadRegs x) s) s .addressOutOfRange (max s.idx.toNat 0x1000) := by
  have fails : firstFailing readCheck (s.ea 0) (x.val + 1) = some (.addressOutOfRange, max s.idx.toNat 0x1000) :=
    firstFailing_readCheck_beyond (Nat.max_lt.2 ⟨Nat.lt_add_of_pos_right x.val.succ_pos, beyond⟩)
  simp only [exec, execLoadRegs, fails]
  rfl

/-! #### The stores that complete -/

theorem exec_ldB_of_allowed (allowed : WritesAllowed s 3) :
    exec (.ldB x) s = .next (s.storeBytes (s.ea 0) (bcdDigits (s.reg x))) :=
  s.storeAtIndex_of_allowed allowed

theorem State.storeBytes_sameBytesOutside (length : bytes.length = count) :
    SameBytesOutside s (s.storeBytes base bytes) base count :=
  length ▸ s.byteAt_storeBytes_outside base bytes

/-- The three bytes that LD B leaves from `base` on are the decimal digits (R183). -/
theorem State.toNat_byteAt_storeBytes_bcdDigits (b : Byte) (canonical : s.memWf) (inMemory : base + 3 ≤ 0x1000) :
    let t := s.storeBytes base (bcdDigits b)
    (t.byteAt base).toNat = b.toNat / 100 ∧ (t.byteAt (base + 1)).toNat = b.toNat / 10 % 10 ∧
      (t.byteAt (base + 2)).toNat = b.toNat % 10 := by
  have stored (k : Nat) (hk : k < 3) : (s.storeBytes base (bcdDigits b)).byteAt (base + k) = (bcdDigits b)[k] :=
    s.byteAt_storeBytes_inside base (bcdDigits b) k hk canonical (by omega)
  refine ⟨?_, ?_, ?_⟩
  · exact (congrArg BitVec.toNat (stored 0 (by decide))).trans (toNat_bcdDigit (Nat.div_le_self _ _))
  · exact (congrArg BitVec.toNat (stored 1 (by decide))).trans
      (toNat_bcdDigit ((Nat.mod_le _ _).trans (Nat.div_le_self _ _)))
  · exact (congrArg BitVec.toNat (stored 2 (by decide))).trans (toNat_bcdDigit (Nat.mod_le _ _))

end

end Sys2Proof.Machine

namespace Sys2Proof.Proofs

open Sys2Proof.Machine Sys2Proof.Claims

/-- Settles O38: a store of three bytes from I on, which are the digits. -/
theorem storeDecimalDigits : Obligations.StoreDecimalDigits := by
  intro x s
  have nonempty : 0 < (bcdDigits (s.reg x)).length := by rw [length_bcdDigits]; decide
  have few : (bcdDigits (s.reg x)).length ≤ 16 := by rw [length_bcdDigits]; decide
  refine ⟨wordDecodes_of_encode (formatX_eq_ofNat 15 0x33 x), fun allowed => ?_,
    State.storeAtIndex_of_protected nonempty, State.storeAtIndex_of_beyond nonempty few⟩
  exact ⟨_, exec_ldB_of_allowed allowed, s.storeBytes_eq _ _, State.storeBytes_sameBytesOutside (length_bcdDigits _),
    fun canonical => State.toNat_byteAt_storeBytes_bcdDigits (s.reg x) canonical allowed.1⟩

/-- Settles O39: a store of x + 1 bytes from I on, which are the registers' values. -/
theorem storeRegisterBlock : Obligations.StoreRegisterBlock := by
  intro x s
  have length := s.length_regsThrough x
  have nonempty : 0 < (s.regsThrough x).length := length ▸ x.val.succ_pos
  have few : (s.regsThrough x).length ≤ 16 := length.trans_le x.isLt
  refine ⟨wordDecodes_of_encode (formatX_eq_ofNat 15 0x55 x), fun allowed => ?_,
    State.storeAtIndex_of_protected nonempty, fun beyond => State.storeAtIndex_of_beyond nonempty few (length ▸ beyond)⟩
  refine ⟨_, exec_storeRegs_of_allowed allowed, s.storeBytes_eq _ _, State.storeBytes_sameBytesOutside length,
    fun canonical k inBlock => State.byteAt_storeBytes_regsThrough canonical inBlock ?_⟩
  exact (Nat.add_lt_add_left (Nat.lt_succ_of_le inBlock) _).trans_le allowed.1

/-- Settles O40: the load reads x + 1 bytes from I on, with no protection. -/
theorem loadRegisterBlock : Obligations.LoadRegisterBlock := by
  refine fun x s => ⟨wordDecodes_of_encode (formatX_eq_ofNat 15 0x65 x), fun readable => ?_, exec_loadRegs_of_beyond⟩
  exact ⟨_, exec_loadRegs_of_readable readable, rfl, fun k => s.reg_setRegsThrough x k (s.ea 0), fun _ => rfl⟩

/-- Settles O37: the 12-bit address, the sum and the glyph's address, each in the 16 bits of I. -/
theorem indexWrites : Obligations.IndexWrites := by
  refine fun x nnn s => ⟨⟨wordDecodes_of_encode rfl, _, rfl, toNat_addr_toWord nnn, rfl, fun _ => rfl⟩,
    ⟨wordDecodes_of_encode (formatX_eq_ofNat 15 0x1E x), _, rfl, ?_, rfl, fun _ => rfl⟩,
    wordDecodes_of_encode (formatX_eq_ofNat 15 0x29 x), _, rfl, toNat_glyphAddress (s.reg x), rfl, fun _ => rfl⟩
  rw [BitVec.toNat_add, toNat_byte_toWord]

end Sys2Proof.Proofs

/-! ### Display (43_display.md R200 to R204) -/

namespace Sys2Proof.Machine

open Sys2Proof.Claims

/-- Column c of a row is bit 7 - c of its byte (R202). -/
theorem spriteBit_eq_true_iff (row : Byte) (c : Nat) : spriteBit row c = true ↔ row.toNat / 2 ^ (7 - c) % 2 = 1 := by
  rw [spriteBit, BitVec.getLsbD, Nat.testBit_eq_decide_div_mod_eq, decide_eq_true_eq]

theorem flagByte_eq_one_iff (b : Bool) : flagByte b = 1 ↔ b = true := by
  cases b <;> decide

theorem flagByte_eq_zero_iff (b : Bool) : flagByte b = 0 ↔ b = false := by
  cases b <;> decide

/-- A set bit of the n-row sprite at I lands in bounds on a pixel that is 1 (R204). Tied to the model by
`State.reg_drawSprite_flag_eq_one_iff`. -/
def SpriteCollides (s : State) (n X Y : Nat) : Prop :=
  ∃ px py, px < 64 ∧ py < 32 ∧ SpriteHits s n X Y px py ∧ s.pixel px py = true

section

variable {s : State} {x y : Reg}

/-! #### The sprite at I -/

@[simp] theorem State.length_spriteRows (n : Nat) : (s.spriteRows n).length = n := by
  rw [State.spriteRows, List.length_map, List.length_range]

theorem State.getElem_spriteRows {n r : Nat} (h : r < (s.spriteRows n).length) :
    (s.spriteRows n)[r] = s.byteAt (s.idx.toNat + r) := by
  simp only [State.spriteRows, State.ea, List.getElem_map, List.getElem_range]

/-- The rows that a draw reads cover the pixels that the sprite at I hits. -/
theorem spriteCovers_spriteRows_iff (n X Y px py : Nat) :
    spriteCovers (s.spriteRows n) X Y px py ↔ SpriteHits s n X Y px py := by
  simp only [spriteCovers, SpriteHits, SpriteBitSet, State.getElem_spriteRows, spriteBit_eq_true_iff,
    State.length_spriteRows, exists_prop]

/-- Drawing changes nothing that the sprite's place depends on but the origin registers. -/
theorem spriteHits_drawSprite_iff (m n X Y px py : Nat) :
    SpriteHits (s.drawSprite x y m) n X Y px py ↔ SpriteHits s n X Y px py := Iff.rfl

/-! #### A draw, at one pixel and in VF -/

section

variable {n px py : Nat} (hx : px < 64) (hy : py < 32)
include hx hy

open Classical in
theorem State.pixel_drawSprite : (s.drawSprite x y n).pixel px py =
    (s.pixel px py != decide (SpriteHits s n (s.reg x).toNat (s.reg y).toNat px py)) := by
  simp only [← spriteCovers_spriteRows_iff]
  exact Canvas.drawRows_pixel _ _ _ _ px py hx hy

theorem State.pixel_drawSprite_of_hits (hit : SpriteHits s n (s.reg x).toNat (s.reg y).toNat px py) :
    (s.drawSprite x y n).pixel px py = !s.pixel px py := by
  simp only [State.pixel_drawSprite hx hy, hit, decide_true, Bool.bne_true]

theorem State.pixel_drawSprite_of_not_hits (miss : ¬SpriteHits s n (s.reg x).toNat (s.reg y).toNat px py) :
    (s.drawSprite x y n).pixel px py = s.pixel px py := by
  simp only [State.pixel_drawSprite hx hy, miss, decide_false, Bool.bne_false]

end

variable (s x y) (n : Nat)

theorem State.reg_drawSprite_flag : (s.drawSprite x y n).reg 15 = flagByte (Canvas.drawRows
    { video := s.video, collision := false } (s.reg x).toNat (s.reg y).toNat (s.spriteRows n)).collision :=
  State.reg_setFlag_flag _ _

/-- The canvas's collision, which starts clear, is the sprite's. -/
theorem drawRows_spriteRows_collision_iff (X Y : Nat) :
    (Canvas.drawRows { video := s.video, collision := false } X Y (s.spriteRows n)).collision = true ↔
      SpriteCollides s n X Y := by
  rw [Canvas.drawRows_collision]
  simp only [Bool.false_eq_true, false_or, spriteCovers_spriteRows_iff]
  rfl

theorem State.reg_drawSprite_flag_eq_one_iff :
    (s.drawSprite x y n).reg 15 = 1 ↔ SpriteCollides s n (s.reg x).toNat (s.reg y).toNat := by
  rw [State.reg_drawSprite_flag, flagByte_eq_one_iff, drawRows_spriteRows_collision_iff]

theorem State.reg_drawSprite_flag_eq_zero_iff :
    (s.drawSprite x y n).reg 15 = 0 ↔ ¬SpriteCollides s n (s.reg x).toNat (s.reg y).toNat := by
  rw [State.reg_drawSprite_flag, flagByte_eq_zero_iff, ← drawRows_spriteRows_collision_iff, Bool.not_eq_true]

/-- The frame of a draw: VF and the pixels. -/
theorem State.drawSprite_frame :
    let t := s.drawSprite x y n
    RegsKeptBut s t [15] ∧ t = { s with v := t.v, video := t.video } ∧ SameBytes s t :=
  ⟨fun r hr => s.reg_drawSprite_ne x y r n (List.ne_of_not_mem_cons hr), rfl, s.byteAt_drawSprite x y n⟩

end

section

variable {s : State} {x y : Reg} {n : Fin 16}

/-! #### A draw repeated at the same origin -/

/-- Each pixel is flipped twice or not at all. -/
theorem State.pixel_drawSprite_twice {px py : Nat} (hx : px < 64) (hy : py < 32)
    (sameX : (s.drawSprite x y n).reg x = s.reg x) (sameY : (s.drawSprite x y n).reg y = s.reg y) :
    ((s.drawSprite x y n).drawSprite x y n).pixel px py = s.pixel px py := by
  have again : SpriteHits (s.drawSprite x y n) n ((s.drawSprite x y n).reg x).toNat ((s.drawSprite x y n).reg y).toNat
      px py ↔ SpriteHits s n (s.reg x).toNat (s.reg y).toNat px py := by rw [sameX, sameY, spriteHits_drawSprite_iff]
  by_cases hit : SpriteHits s n (s.reg x).toNat (s.reg y).toNat px py
  · rw [State.pixel_drawSprite_of_hits hx hy (again.2 hit), State.pixel_drawSprite_of_hits hx hy hit, Bool.not_not]
  · rw [State.pixel_drawSprite_of_not_hits hx hy (mt again.1 hit), State.pixel_drawSprite_of_not_hits hx hy hit]

/-- A pixel under the sprite is 1 for the second draw exactly when it was 0 for the first. -/
theorem spriteCollides_drawSprite_iff :
    SpriteCollides (s.drawSprite x y n) n (s.reg x).toNat (s.reg y).toNat ↔
      ∃ px py, px < 64 ∧ py < 32 ∧ SpriteHits s n (s.reg x).toNat (s.reg y).toNat px py ∧ s.pixel px py = false := by
  refine exists₂_congr fun px py => and_congr_right fun hx => and_congr_right fun hy => and_congr_right fun hit => ?_
  rw [State.pixel_drawSprite_of_hits hx hy hit, Bool.not_eq_true']

/-! #### DRW, by its address check (R201) -/

theorem exec_drw_of_readable (readable : n.val = 0 ∨ s.idx.toNat + n.val ≤ 0x1000) :
    exec (.drw x y n) s = .next (s.drawSprite x y n) := by
  have passes : firstFailing readCheck (s.ea 0) n.val = none := by
    refine (firstFailing_eq_none _ _ _).2 fun k hk => (readCheck_eq_none _).2 ?_
    simp only [State.ea]
    omega
  simp only [exec, execDrw, passes]
  rfl

theorem exec_drw_of_beyond (nonempty : n.val ≠ 0) (beyond : 0x1000 < s.idx.toNat + n.val) :
    Raises (exec (.drw x y n) s) s .addressOutOfRange (max s.idx.toNat 0x1000) := by
  have fails : firstFailing readCheck (s.ea 0) n.val = some (.addressOutOfRange, max s.idx.toNat 0x1000) :=
    firstFailing_readCheck_beyond (Nat.max_lt.2 ⟨Nat.lt_add_of_pos_right (Nat.pos_of_ne_zero nonempty), beyond⟩)
  simp only [exec, execDrw, fails]
  rfl

end

end Sys2Proof.Machine

namespace Sys2Proof.Proofs

open Sys2Proof.Machine Sys2Proof.Claims

/-- Settles O45: where the rows are in memory the draw completes, each pixel flipped exactly when hit and VF the collision;
elsewhere the check fails at the first row past the memory. -/
theorem drawFlipsTheSpritesPixels : Obligations.DrawFlipsTheSpritesPixels := by
  refine fun x y n s => ⟨wordDecodes_of_encode rfl, fun readable => ?_, exec_drw_of_beyond⟩
  refine ⟨_, exec_drw_of_readable readable, fun px py hx hy => ⟨?_, ?_⟩, ?_, ?_, s.drawSprite_frame x y n⟩
  · exact State.pixel_drawSprite_of_hits hx hy
  · exact State.pixel_drawSprite_of_not_hits hx hy
  · exact (s.reg_drawSprite_flag_eq_one_iff x y n).2
  · exact (s.reg_drawSprite_flag_eq_zero_iff x y n).2

/-- Settles O46: with the origin kept, the second draw hits the pixels of the first, each of them flipped by it. -/
theorem drawingTwiceRestoresTheFramebuffer : Obligations.DrawingTwiceRestoresTheFramebuffer := by
  intro x y n s readable
  refine ⟨_, exec_drw_of_readable readable, s.reg_drawSprite_ne x y x n, s.reg_drawSprite_ne x y y n,
    fun sameX sameY => ?_⟩
  refine ⟨_, exec_drw_of_readable readable, fun px py hx hy => State.pixel_drawSprite_twice hx hy sameX sameY, ?_⟩
  rw [State.reg_drawSprite_flag_eq_one_iff, sameX, sameY, spriteCollides_drawSprite_iff]

/-- Settles O44. -/
theorem clearTheFramebuffer : Obligations.ClearTheFramebuffer := by
  refine fun s => ⟨wordDecodes_of_encode rfl, _, rfl, fun x y => ?_, rfl, fun _ => rfl⟩
  exact BitVec.getLsbD_zero

end Sys2Proof.Proofs

/-! ### Keypad and timers (44_keypad_timers.md R220 to R225) -/

namespace Sys2Proof.Machine

open Sys2Proof.Claims

section

variable {s : State}

/-! #### A word that leaves the block where it is -/

/-- A tick, made or not, changes the timers alone. -/
theorem State.coupledTick_eq (s : State) :
    s.coupledTick = { s with dt := s.coupledTick.dt, st := s.coupledTick.st } := by
  cases policy : s.cfg.timerPolicy with
  | decoupled => rw [s.coupledTick_decoupled policy]
  | cycleCoupled => rw [s.coupledTick_cycleCoupled policy, State.tick]

/-- The instruction at pc answers the state its Cycle began with, whatever the timers and the recorded result are. Tied to
the model by `cycle_of_repeats`. -/
def State.Repeats (s : State) (i : Instr) : Prop :=
  ∀ (dt st : Byte) (result : TxnResult),
    let t := { s with dt := dt, st := st, result := result }
    exec i t.advance = .next t

variable {i : Instr} (inside : s.pc.toNat ≤ 0xFFE) (decoded : decode (s.wordAt s.pc.toNat) = .ok i)
include inside decoded

theorem cycle_of_repeats (clear : s.fault = none) (repeats : s.Repeats i) :
    cycle s = .next { s with dt := s.coupledTick.dt, st := s.coupledTick.st, result := .ok } := by
  have stays : exec i s.advance = .next s := repeats s.dt s.st s.result
  rw [cycle_of_decoded s clear inside i decoded, stays, finishCycle, s.endCycle_ok clear, s.coupledTick_eq]

/-- Any number of Cycles at such a word: each leaves a state at which the word repeats again. -/
theorem core_run_of_repeats (ready : s.Ready) (repeats : s.Repeats i) (n : Nat) :
    ∃ t, core.run n s = .next t ∧ t = { s with dt := t.dt, st := t.st, result := t.result } := by
  induction n generalizing s with
  | zero => exact ⟨s, rfl, rfl⟩
  | succ n ih =>
    obtain ⟨idle, clear⟩ := ready
    have next : step s = .next { s with dt := s.coupledTick.dt, st := s.coupledTick.st, result := .ok } :=
      (step_of_idle s idle).trans (cycle_of_repeats inside decoded clear repeats)
    rw [core_run_succ s n _ next]
    exact ih inside decoded ⟨idle, clear⟩ repeats

end

section

variable {s : State} (x : Reg)

/-! #### The key wait (R223) -/

theorem exec_ldVxK_of_pressed {k : Nat} (lowest : s.lowestKey = some k) :
    exec (.ldVxK x) s = .next (s.setReg x (BitVec.ofNat 8 k)) := by
  simp only [exec, execLdVxK, lowest]

theorem exec_ldVxK_of_none (noKey : s.lowestKey = none) : exec (.ldVxK x) s = .next { s with pc := s.pc - 2 } := by
  simp only [exec, execLdVxK, noKey]

/-- With no key pressed the wait takes back the fetch advance. -/
theorem State.repeats_ldVxK (noKey : s.lowestKey = none) : s.Repeats (.ldVxK x) := by
  intro dt st result t
  have back : s.pc + 2 - 2 = s.pc := BitVec.add_sub_cancel _ _
  rw [exec_ldVxK_of_none (s := t.advance) x noKey, State.advance_pc, back]
  rfl

end

section

variable (s : State)

/-! #### The key tests (R220, R221) -/

theorem State.skipIf_pressed_pc (level : Bool) : (s.skipIf (level == true)).pc = if level = true then s.pc + 2 else s.pc := by
  cases level <;> rfl

theorem State.skipIf_released_pc (level : Bool) : (s.skipIf (level == false)).pc = if level = true then s.pc else s.pc + 2 := by
  cases level <;> rfl

/-- What a key test on a key that exists answers, given the pc its level leads to. -/
theorem State.exists_keyTest_next (k : Byte) (level : Bool) (h : k.toNat < 16) {pc : Word}
    (target : (s.skipIf (s.key[k.toNat] == level)).pc = pc) :
    ∃ t, (.next (s.keyTest k level) : Result) = .next t ∧ t.pc = pc ∧ t = { s with pc := t.pc } ∧ SameBytes s t := by
  rw [s.keyTest_of_lt k level h]
  exact exists_skipIf_next s _ target

theorem State.keyTest_raises (k : Byte) (level : Bool) (h : 16 ≤ k.toNat) :
    Raises (.next (s.keyTest k level)) s .keyIndexOutOfRange k.toNat :=
  congrArg Host.Outcome.next (s.keyTest_of_ge k level h)

end

end Sys2Proof.Machine

namespace Sys2Proof.Proofs

open Sys2Proof.Machine Sys2Proof.Claims

/-- Settles O50: a wait that finds no key repeats its word. -/
theorem keyWaitRepeatsForever : Obligations.KeyWaitRepeatsForever := by
  intro s x n ready inside decoded released
  have noKey : s.lowestKey = none := s.lowestKey_eq_none.2 fun k => released k k.isLt
  exact core_run_of_repeats inside decoded ready (State.repeats_ldVxK x noKey) n

/-- Settles O48: each test is a skip on the key's level where the key exists, and raises where it does not. -/
theorem keyTestsSkip : Obligations.KeyTestsSkip := by
  refine fun x s => ⟨wordDecodes_of_encode (formatX_eq_ofNat 14 0x9E x), wordDecodes_of_encode (formatX_eq_ofNat 14 0xA1 x),
    fun h => ⟨?_, ?_⟩, fun beyond => ⟨s.keyTest_raises _ true beyond, s.keyTest_raises _ false beyond⟩⟩
  · exact s.exists_keyTest_next _ true h (s.skipIf_pressed_pc _)
  · exact s.exists_keyTest_next _ false h (s.skipIf_released_pc _)

/-- Settles O49, by what the search for the lowest key finds. -/
theorem keyWaitTakesTheLowestKey : Obligations.KeyWaitTakesTheLowestKey := by
  refine fun x s => ⟨wordDecodes_of_encode (formatX_eq_ofNat 15 0x0A x), fun k h pressed lower => ?_, fun released => ?_⟩
  · have lowest : s.lowestKey = some k := (s.lowestKey_eq_some k).2 ⟨h, pressed, lower⟩
    refine ⟨_, exec_ldVxK_of_pressed x lowest, ?_, s.setReg_frame x _⟩
    rw [State.reg_setReg_same, BitVec.toNat_ofNat]
    omega
  · have noKey : s.lowestKey = none := s.lowestKey_eq_none.2 fun k => released k k.isLt
    exact ⟨_, exec_ldVxK_of_none x noKey, rfl, rfl, fun _ => rfl⟩

/-- Settles O51. -/
theorem timerMoves : Obligations.TimerMoves := by
  refine fun x s => ⟨⟨wordDecodes_of_encode (formatX_eq_ofNat 15 0x07 x), _, rfl, ?_, s.setReg_frame x _⟩,
    ⟨wordDecodes_of_encode (formatX_eq_ofNat 15 0x15 x), _, rfl, rfl, rfl, fun _ => rfl⟩,
    wordDecodes_of_encode (formatX_eq_ofNat 15 0x18 x), _, rfl, rfl, rfl, fun _ => rfl⟩
  exact s.reg_setReg_same x s.dt

end Sys2Proof.Proofs

/-! ### Exceptions and the host's transactions (60_exceptions.md R242, R243, R255 to R261) -/

namespace Sys2Proof.Machine

section

variable {s t u : State} {bytes : List Byte}

/-! #### Fault entry (R242) -/

/-- What a fault raised behind the fetch advance leaves of the state before the advance. -/
theorem State.raise_advance (s : State) (code : FaultCode) (info : Nat) :
    s.advance.raise code info = { s with
      fault := some { code := code, addr := s.pc, word := s.wordAt s.pc.toNat, info := BitVec.ofNat 16 info } } := by
  have back : s.pc + 2 - 2 = s.pc := BitVec.add_sub_cancel _ _
  rw [State.raise, State.advance_pc, back]
  rfl

/-- A Cycle latches a fault in its fetch, or by an instruction that raises; nothing else that starts with a clear latch
sets it. -/
theorem cycle_raises {f : FaultRecord} (clear : s.fault = none) (h : cycle s = .next t) (latched : t.fault = some f) :
    (0xFFE < s.pc.toNat ∧ ∃ code info, t = s.fetchFault code info) ∨
    (s.pc.toNat ≤ 0xFFE ∧ ∃ code info, t = (s.advance.raise code info).endCycle) := by
  rcases cycle_cases s with ⟨g, set, -⟩ | ⟨-, beyond, e⟩ | ⟨-, -, -, e⟩ | ⟨-, inside, i, -, e⟩
  · exact nomatch clear.symm.trans set
  · cases e.symm.trans h
    exact .inl ⟨beyond, _, _, rfl⟩
  · cases e.symm.trans h
    exact nomatch (s.advance.coupledTick_fault.trans clear).symm.trans latched
  · obtain ⟨u, hu, rfl⟩ := finishCycle_next (e.symm.trans h)
    rcases exec_fault_cases s.advance i u hu with kept | ⟨code, info, rfl⟩
    · exact nomatch (u.endCycle_fault.trans (kept.trans clear)).symm.trans latched
    · exact .inr ⟨inside, code, info, rfl⟩

/-! #### TickTimers (R255, R256) -/

theorem txnTickTimers_of_decoupled (policy : s.cfg.timerPolicy = .decoupled) :
    txnTickTimers s = .next { s.tick with result := .noResult } := by
  simp only [txnTickTimers, policy]

theorem txnTickTimers_of_cycleCoupled (policy : s.cfg.timerPolicy = .cycleCoupled) :
    txnTickTimers s = .refused .tickTimersUnderCycleCoupled := by
  simp only [txnTickTimers, policy]

/-! #### LoadROM, by its source (R283) -/

theorem txnLoadRom_of_long (s : State) (long : 3584 < bytes.length) :
    txnLoadRom true bytes s = .next { s with result := .capacityError } :=
  if_pos long

theorem txnLoadRom_of_fits (s : State) (fits : bytes.length ≤ 3584) :
    txnLoadRom true bytes s = .next { s.storeBytes 0x200 bytes with result := .ok } :=
  if_neg (Nat.not_lt.2 fits)

/-! #### The transactions on a latched state (R243) -/

theorem State.storeBytes_withFault (s : State) (latch : Option FaultRecord) (base : Nat) (bytes : List Byte) :
    { s with fault := latch }.storeBytes base bytes = { s.storeBytes base bytes with fault := latch } := by
  induction bytes generalizing base with
  | nil => rfl
  | cons b bs ih =>
    simp only [State.storeBytes, ih (base + 1)]
    rfl

theorem txnTickTimers_withFault (latch : Option FaultRecord) (h : txnTickTimers s = .next u) :
    txnTickTimers { s with fault := latch } = .next { u with fault := latch } := by
  cases policy : s.cfg.timerPolicy with
  | decoupled =>
    cases (txnTickTimers_of_decoupled policy).symm.trans h
    exact txnTickTimers_of_decoupled (s := { s with fault := latch }) policy
  | cycleCoupled => exact nomatch (txnTickTimers_of_cycleCoupled policy).symm.trans h

theorem txnLoadRom_withFault (latch : Option FaultRecord) {readable : Bool}
    (h : txnLoadRom readable bytes s = .next u) :
    txnLoadRom readable bytes { s with fault := latch } = .next { u with fault := latch } := by
  cases readable with
  | false => cases h; rfl
  | true =>
    rcases Nat.lt_or_ge 3584 bytes.length with long | fits
    · cases (txnLoadRom_of_long s long).symm.trans h
      exact txnLoadRom_of_long _ long
    · cases (txnLoadRom_of_fits s fits).symm.trans h
      rw [txnLoadRom_of_fits _ fits, s.storeBytes_withFault]

end

end Sys2Proof.Machine

namespace Sys2Proof.Proofs

open Sys2Proof.Machine Sys2Proof.Claims

/-- Settles O9: a Cycle goes by the latch before all else, and no other of the named transactions reads it. -/
theorem latchedFaultIsSticky : Obligations.LatchedFaultIsSticky := by
  refine ⟨fun s f latched => cycleAnswers_of_cycle (cycle_of_latched s f latched), fun _ => rfl, ?_⟩
  intro s u f readable bytes k pressed x hx h
  simp only [List.mem_cons, List.not_mem_nil, or_false] at hx
  rcases hx with rfl | rfl | rfl | rfl | rfl
  · cases h; rfl
  · cases h; rfl
  · cases h; rfl
  · exact txnTickTimers_withFault (some f) h
  · exact txnLoadRom_withFault (some f) h

/-- Settles O12: a fetch fault is raised before the advance, and an instruction's fault takes the advance back. -/
theorem faultEntryIsPrecise : Obligations.FaultEntryIsPrecise := by
  intro s t f clear answered latched
  have h : cycle s = .next t := answered.elim id fun ⟨idle, e⟩ => (step_of_idle s idle).symm.trans e
  rcases cycle_raises clear h latched with ⟨beyond, code, info, rfl⟩ | ⟨inside, code, info, rfl⟩
  · cases latched
    exact ⟨rfl, (if_neg (by omega)).symm, rfl⟩
  · rw [s.raise_advance, State.endCycle_faulted _ _ rfl] at latched ⊢
    cases latched
    exact ⟨rfl, (if_pos (by omega)).symm, rfl⟩

/-- Settles O16: the end of a Cycle ticks under CYCLE_COUPLED alone, the transaction under DECOUPLED alone. -/
theorem timersHaveOneAuthority : Obligations.TimersHaveOneAuthority := by
  refine ⟨fun s u i clear inside decoded hu completes => ?_, fun s policy => ?_,
    fun s policy => txnTickTimers_of_cycleCoupled policy⟩
  · have answer : cycle s = .next { u.coupledTick with result := .ok } := by
      rw [cycle_of_decoded s clear inside i decoded, show exec i s.advance = .next u from hu, finishCycle,
        u.endCycle_ok completes]
    have samePolicy : u.cfg = s.cfg := (exec_effect hu).cfg_eq
    refine ⟨_, cycleAnswers_of_cycle answer, ?_, fun policy => ?_, fun policy => ?_⟩
    · exact congrArg (fun r => { r with result := .ok }) u.coupledTick_eq
    · rw [← samePolicy] at policy
      rw [u.coupledTick_decoupled policy]
      exact ⟨rfl, rfl⟩
    · rw [← samePolicy] at policy
      rw [u.coupledTick_cycleCoupled policy]
      exact ⟨ticked_countDown u.dt, ticked_countDown u.st⟩
  · exact ⟨_, txnTickTimers_of_decoupled policy, rfl, ticked_countDown s.dt, ticked_countDown s.st⟩

/-- Settles O21, by whether key k exists. -/
theorem setKeyStateSetsOneKey : Obligations.SetKeyStateSetsOneKey := by
  refine fun s k pressed => ⟨_, rfl, rfl, fun j h => ?_, fun beyond => dif_neg (Nat.not_lt.2 beyond)⟩
  by_cases isKey : k < 16
  · simp only [isKey, dif_pos, Vector.getElem_set, eq_comm]
  · have other : j ≠ k := by omega
    simp only [isKey, dif_neg, not_false_iff, other, if_false]

/-- Settles O22. -/
theorem readTransactionsChangeNothing : Obligations.ReadTransactionsChangeNothing :=
  fun _ => ⟨rfl, rfl, rfl, fun _ _ _ _ => rfl⟩

end Sys2Proof.Proofs

/-! ### Reset, LoadROM and the ends of a run (70_reset_and_hazards.md R280 to R290) -/

namespace Sys2Proof.Machine

section

variable {s t : State}

/-! #### What Initialize leaves (R280, R281) -/

theorem State.reg_initialized (s : State) (x : Reg) : s.initialized.reg x = 0 := Vector.getElem_replicate x.isLt

theorem State.getElem_initialized_stack (s : State) {k : Nat} (h : k < 16) : s.initialized.stack[k] = 0 :=
  Vector.getElem_replicate h

theorem State.getElem_initialized_key (s : State) {k : Nat} (h : k < 16) : s.initialized.key[k] = false :=
  Vector.getElem_replicate h

theorem State.pixel_initialized (s : State) (x y : Nat) : s.initialized.pixel x y = false := BitVec.getLsbD_zero

theorem State.byteAt_initialized (s : State) (a : Nat) : s.initialized.byteAt a = resetByte s.cfg a :=
  Memory.read_nil s.cfg a

/-- Initialize reads of the state before it only what is not the block's own. -/
theorem State.initialized_congr (cfg : s.cfg = t.cfg) (draws : s.draws = t.draws) (pending : s.pending = t.pending)
    (diags : s.diags = t.diags) : s.initialized = t.initialized := by
  simp only [State.initialized, cfg, draws, pending, diags]

theorem State.initialized_idem (s : State) : s.initialized.initialized = s.initialized := rfl

/-! #### The host's queue: no transaction reads it or adds to it (log 1) -/

@[simp] theorem State.endCycle_pending (s : State) : s.endCycle.pending = s.pending := by
  unfold State.endCycle; split <;> simp

theorem Effect.pending_eq {i : Instr} (e : Effect s i t) : t.pending = s.pending := by cases e <;> rfl

theorem cycle_pending (h : cycle s = .next t) : t.pending = s.pending := by
  rcases cycle_next h with ⟨f, -, rfl⟩ | ⟨info, rfl⟩ | ⟨-, -, w, rfl⟩ | ⟨-, -, i, u, e, rfl⟩
  · rfl
  · rfl
  · exact s.advance.coupledTick_pending
  · exact u.endCycle_pending.trans e.pending_eq

theorem perform_pending {x : Txn} (h : perform x s = .next t) : t.pending = s.pending := by
  cases x with
  | cycle => exact cycle_pending h
  | tickTimers => obtain rfl := txnTickTimers_next h; rfl
  | loadRom => rcases txnLoadRom_next h with ⟨r, rfl⟩ | rfl <;> rfl
  | initBlock | setKeyState | getVideo | readTimers | readFault => cases h; rfl

/-- A step takes the oldest transaction from the queue, where there is one. -/
theorem step_pending (h : step s = .next t) : t.pending = s.pending.tail := by
  cases queue : s.pending with
  | nil =>
    rw [step_of_idle s queue] at h
    exact (cycle_pending h).trans queue
  | cons x rest =>
    rw [step_of_pending s x rest queue] at h
    exact perform_pending h

/-! #### Runs, by their first step -/

theorem step_cases (s : State) : (∃ t, step s = .next t) ∨ ∃ r, step s = .refused r := by
  cases answer : step s with
  | next t => exact .inl ⟨t, rfl⟩
  | fault r => cases r
  | refused r => exact .inr ⟨r, rfl⟩

theorem core_run_succ_of_refused {r : Refusal} (k : Nat) (h : step s = .refused r) :
    core.run (k + 1) s = .refused r := by
  have e : core.step s = .refused r := h
  simp only [Host.Core.run, e]

theorem runUntil_succ_of_refused {e : RunEnd} {r : Refusal} (n : Nat) (going : s.runEnded e = false)
    (h : step s = .refused r) : runUntil e (n + 1) s = .refused r := by
  simp only [runUntil, going, h, Bool.false_eq_true, if_false]

theorem core_run_succ_next {k : Nat} (h : core.run (k + 1) s = .next t) :
    ∃ u, step s = .next u ∧ core.run k u = .next t := by
  rcases step_cases s with ⟨u, hu⟩ | ⟨r, refused⟩
  · exact ⟨u, hu, (core_run_succ s k u hu).symm.trans h⟩
  · exact nomatch (core_run_succ_of_refused k refused).symm.trans h

/-- A run that answers has ended where it is, or goes on from the next state. -/
theorem runUntil_succ_next {e : RunEnd} {n : Nat} (h : runUntil e (n + 1) s = .next t) :
    (s.runEnded e = true ∧ t = s) ∨ (s.runEnded e = false ∧ ∃ u, step s = .next u ∧ runUntil e n u = .next t) := by
  cases going : s.runEnded e with
  | true =>
    cases (runUntil_of_ended s e _ going).symm.trans h
    exact .inl ⟨rfl, rfl⟩
  | false =>
    rcases step_cases s with ⟨u, hu⟩ | ⟨r, refused⟩
    · exact .inr ⟨rfl, u, hu, (runUntil_succ s e n u going hu).symm.trans h⟩
    · exact nomatch (runUntil_succ_of_refused n going refused).symm.trans h

theorem core_run_pending {k : Nat} (h : core.run k s = .next t) : t.pending = s.pending.drop k := by
  induction k generalizing s with
  | zero => cases h; rfl
  | succ k ih =>
    obtain ⟨u, hu, later⟩ := core_run_succ_next h
    rw [ih later, step_pending hu, List.drop_tail]

/-- Up to the host's stop a run takes one step for each queued transaction (log 16). -/
theorem runUntil_hostStops (n : Nat) (s : State) : runUntil .hostStops n s = core.run (min n s.pending.length) s := by
  induction n generalizing s with
  | zero => rw [Nat.zero_min]; rfl
  | succ n ih =>
    cases queue : s.pending with
    | nil => exact runUntil_of_ended s .hostStops (n + 1) (by rw [State.runEnded_hostStops, queue]; rfl)
    | cons x rest =>
      have going : s.runEnded .hostStops = false := by rw [State.runEnded_hostStops, queue]; rfl
      rw [List.length_cons, Nat.succ_min_succ]
      rcases step_cases s with ⟨t, ht⟩ | ⟨r, refused⟩
      · have left : t.pending = rest := by rw [step_pending ht, queue, List.tail_cons]
        rw [runUntil_succ s .hostStops n t going ht, core_run_succ s _ t ht, ih, left]
      · exact (runUntil_succ_of_refused n going refused).trans (core_run_succ_of_refused _ refused).symm

/-! #### The states that further Cycles leave (R243, R111) -/

theorem step_of_latched {f : FaultRecord} (latched : s.fault = some f) (idle : s.pending = []) :
    step s = .next (s.refault f) :=
  (step_of_idle s idle).trans (cycle_of_latched s f latched)

theorem core_run_of_latched {f : FaultRecord} (latched : s.fault = some f) (idle : s.pending = []) (n : Nat) :
    core.run (n + 1) s = .next (s.refault f) := by
  induction n generalizing s with
  | zero => exact core_run_succ s 0 _ (step_of_latched latched idle)
  | succ n ih => exact (core_run_succ s (n + 1) _ (step_of_latched latched idle)).trans (ih latched idle)

/-- The self-jump's condition with the jump's target as a number (log 16). -/
theorem State.atSelfJump_iff (s : State) : s.atSelfJump = true ↔ s.fault = none ∧ s.pc.toNat ≤ 0xFFE ∧
    ∃ nnn : Addr, decode (s.wordAt s.pc.toNat) = .ok (.jp nnn) ∧ nnn.toNat = s.pc.toNat := by
  simp only [State.atSelfJump, Bool.and_eq_true, Option.isNone_iff_eq_none, decide_eq_true_eq, and_assoc]
  refine and_congr_right fun _ => and_congr_right fun inside => ⟨fun decoded => ⟨_, decoded, ?_⟩, ?_⟩
  · rw [BitVec.toNat_ofNat]
    omega
  · rintro ⟨nnn, decoded, target⟩
    rw [decoded, ← target, BitVec.ofNat_toNat, BitVec.setWidth_eq]

/-- A `JP` to the word it stands at takes back the fetch advance. -/
theorem State.repeats_jp {nnn : Addr} (target : nnn.toNat = s.pc.toNat) : s.Repeats (.jp nnn) := by
  intro dt st result t
  have back : nnn.toWord = s.pc := BitVec.eq_of_toNat_eq ((toNat_addr_toWord nnn).trans target)
  simp only [exec, execJp, back]
  rfl

end

end Sys2Proof.Machine

namespace Sys2Proof.Proofs

open Sys2Proof.Machine Sys2Proof.Claims

/-- Settles O20, by the source: unreadable, too long, or an image that is stored. -/
theorem loadRomCopiesTheImage : Obligations.LoadRomCopiesTheImage := by
  refine fun s bytes => ⟨rfl, txnLoadRom_of_long s, fun fits => ⟨_, txnLoadRom_of_fits s fits, ?_, ?_, ?_⟩⟩
  · exact congrArg (fun r => { r with result := .ok }) (s.storeBytes_eq 0x200 bytes)
  · exact s.byteAt_storeBytes_outside 0x200 bytes
  · exact fun canonical k h => s.byteAt_storeBytes_inside 0x200 bytes k h canonical (by omega)

/-- Settles O56: a run up to the host's stop is a run of the block's steps, each of which shortens the queue by one. -/
theorem hostStopLeavesTheStateAsItIs : Obligations.HostStopLeavesTheStateAsItIs := by
  refine ⟨fun s n idle => ?_, fun s n => runUntil_hostStops n s, fun s t n h => ?_⟩
  · exact runUntil_of_ended s .hostStops n (by rw [State.runEnded_hostStops, idle]; rfl)
  · rw [runUntil_hostStops] at h
    exact (core_run_pending h).trans List.drop_eq_drop_min.symm

/-- Settles O57: a Cycle on a set latch leaves the latch set. -/
theorem setLatchEndsARun : Obligations.SetLatchEndsARun := by
  intro s f n latched
  have ended : s.runEnded .latchSet = true := by rw [State.runEnded_latchSet, latched]; rfl
  exact ⟨ended, runUntil_of_ended s .latchSet n ended, fun idle => core_run_of_latched latched idle n⟩

/-- Settles O58: the jump repeats its word, and the end's condition reads neither the timers nor the result. -/
theorem selfJumpEndsARun : Obligations.SelfJumpEndsARun := by
  refine fun s => ⟨s.atSelfJump_iff, fun ended n => ⟨runUntil_of_ended s .selfJump n ended, fun idle => ?_⟩⟩
  obtain ⟨clear, inside, nnn, decoded, target⟩ := s.atSelfJump_iff.1 ended
  obtain ⟨t, run, frame⟩ := core_run_of_repeats inside decoded ⟨idle, clear⟩ (State.repeats_jp target) n
  exact ⟨t, run, by rw [frame]; exact ended, frame⟩

/-- Settles O59, by induction on the bound: the run has ended at its first state, or its first end is that of the run from
the next one. -/
theorem runStopsAtItsFirstEnd : Obligations.RunStopsAtItsFirstEnd := by
  intro e n
  induction n with
  | zero =>
    intro s t h
    exact ⟨0, Nat.le_refl 0, h, .inl rfl, fun j hj => absurd hj (Nat.not_lt_zero j)⟩
  | succ n ih =>
    intro s t h
    rcases runUntil_succ_next h with ⟨ended, rfl⟩ | ⟨going, u, hu, later⟩
    · exact ⟨0, Nat.zero_le _, rfl, .inr ended, fun j hj => absurd hj (Nat.not_lt_zero j)⟩
    · obtain ⟨k, bound, run, stopped, before⟩ := ih u t later
      refine ⟨k + 1, Nat.succ_le_succ bound, (core_run_succ s k u hu).trans run,
        stopped.imp_left (congrArg Nat.succ), fun j hj => ?_⟩
      cases j with
      | zero => exact ⟨s, rfl, going⟩
      | succ j =>
        obtain ⟨v, hv, notYet⟩ := before j (Nat.lt_of_succ_lt_succ hj)
        exact ⟨v, (core_run_succ s j u hu).trans hv, notYet⟩

/-- Settles O15. -/
theorem resetMeetsTheInvariant : Obligations.ResetMeetsTheInvariant := State.resetWith_inv defaultConfig

/-- Settles O17. -/
theorem initializeGivesEveryResetValue : Obligations.InitializeGivesEveryResetValue := by
  intro s
  have font (a : Nat) (h : a < 80) : s.initialized.byteAt a = s.cfg.font[a] :=
    (s.byteAt_initialized a).trans (resetByte_of_lt s.cfg h)
  have zeroes (a : Nat) (h : 0x50 ≤ a) (_ : a < 0x1000) : s.initialized.byteAt a = 0 :=
    (s.byteAt_initialized a).trans (resetByte_of_ge s.cfg h)
  exact ⟨s.initialized, rfl, font, zeroes, s.reg_initialized, rfl, rfl, fun _ => s.getElem_initialized_stack, rfl, rfl,
    rfl, fun _ => s.getElem_initialized_key, fun x y _ _ => s.pixel_initialized x y, rfl, rfl, rfl⟩

/-- Settles O18. -/
theorem initializeForgetsTheStateBefore : Obligations.InitializeForgetsTheStateBefore := by
  refine ⟨fun s u cfg draws pending diags => ?_, fun s t h => ?_⟩
  · exact congrArg Host.Outcome.next (State.initialized_congr cfg draws pending diags)
  · cases h
    exact congrArg Host.Outcome.next s.initialized_idem

end Sys2Proof.Proofs

/-! ### The word the host places (log 11) -/

namespace Sys2Proof

/-- A word is its high byte, then its low byte (R51). -/
@[simp] theorem wordOfBytes_hiByte_loByte (w : Word) : wordOfBytes (hiByte w) (loByte w) = w := by
  apply BitVec.eq_of_toNat_eq
  simp only [toNat_wordOfBytes, hiByte, loByte, bitField, BitVec.toNat_ofNat]; omega

end Sys2Proof

namespace Sys2Proof.Machine

section

variable (s : State) (w : Word)

theorem State.wordAt_storeBytes_word {base : Nat} (canonical : s.memWf) (inMemory : base + 1 < 4096) :
    (s.storeBytes base [hiByte w, loByte w]).wordAt base = w := by
  have stored (k : Nat) (hk : k < 2) :
      (s.storeBytes base [hiByte w, loByte w]).byteAt (base + k) = [hiByte w, loByte w][k] :=
    s.byteAt_storeBytes_inside base [hiByte w, loByte w] k hk canonical (by omega)
  exact (congrArg₂ wordOfBytes (stored 0 (by decide)) (stored 1 (by decide))).trans (wordOfBytes_hiByte_loByte w)

/-- Placing a 16-bit word stores its two bytes at pc, empties the queue and clears the latch. -/
theorem State.withFetchWord_word : s.withFetchWord 16 w.toNat =
    { s.storeBytes s.pc.toNat [hiByte w, loByte w] with pending := [], fault := none } := by
  have whole : BitVec.ofNat 16 (w.toNat % 2 ^ 16) = w := by
    rw [Nat.mod_eq_of_lt w.isLt, BitVec.ofNat_toNat, BitVec.setWidth_eq]
  rw [State.withFetchWord, whole]

@[simp] theorem State.withFetchWord_pc (nbits n : Nat) : (s.withFetchWord nbits n).pc = s.pc :=
  s.storeBytes_pc _ _

theorem State.withFetchWord_ready (nbits n : Nat) : (s.withFetchWord nbits n).Ready := ⟨rfl, rfl⟩

theorem State.wordAt_withFetchWord (canonical : s.memWf) (inside : s.pc.toNat ≤ 0xFFE) :
    (s.withFetchWord 16 w.toNat).wordAt s.pc.toNat = w := by
  rw [s.withFetchWord_word]
  exact s.wordAt_storeBytes_word w canonical (by omega)

end

end Sys2Proof.Machine

namespace Sys2Proof.Proofs

open Sys2Proof.Machine Sys2Proof.Claims

/-- Settles O8: the word stored at pc reads back there, and pc is where the next step fetches. -/
theorem placedWordIsFetched : Obligations.PlacedWordIsFetched := by
  intro s w canonical inside
  refine ⟨s.withFetchWord_ready 16 w.toNat, s.withFetchWord_pc 16 w.toNat, ?_, ?_⟩
  · rw [State.fetch_ok _ (by rwa [s.withFetchWord_pc]), s.withFetchWord_pc, s.wordAt_withFetchWord w canonical inside]
  · rw [s.withFetchWord_word]
    exact s.byteAt_storeBytes_outside s.pc.toNat [hiByte w, loByte w]

end Sys2Proof.Proofs
